-- ==== Sys2Proof/Word.lean ====
section
/-! DEFINITION. The word and byte types (00_scope.md R8, R11) and the 9-word secret table type. The wrapping operators of
R12 are `BitVec`'s own `+ - * ^^^ ||| &&& <<< >>>`; nothing in the unit is signed. -/

namespace Sys2Proof

/-- A word: 64 bits unsigned (R8). Bit 0 is the least significant (R11). -/
abbrev Word := BitVec 64

/-- One message byte (R50). -/
abbrev Byte := BitVec 8

/-- A secret table: "exactly 9 sixty-four-bit words" (R8, R27); `S[k]` is word `k`. -/
abbrev SecretTable := Vector Word 9

end Sys2Proof
end

