-- ==== Sys2Proof/Machine/Operands.lean ====
section
/-! DEFINITION. Every assembly of a value from pieces (R88), the population counter (R12), the boolean result word (R87)
and the operand domain predicates of the Montgomery commands (R208). The unit has one operand form only: a whole descriptor
word, used as it is (R81, R88). -/

namespace Sys2Proof.Machine

/-- The number `b0 + 2^8·b1 + 2^16·b2 + …`: little-endian, the byte at the lowest offset least significant (R53 to R55). -/
def leValue : List Byte → Nat
  | [] => 0
  | b :: bs => b.toNat + 2 ^ 8 * leValue bs

/-- The word a little-endian read of these bytes returns, zero-extended (R52 to R54). -/
def leWord (bs : List Byte) : Word := BitVec.ofNat 64 (leValue bs)

/-- The word of a 1-to-3-byte message: first byte at 23:16, middle byte at 15:8, last byte at 7:0 (R147). -/
def packShort (first middle last : Word) : Word := (first <<< 16) ||| (middle <<< 8) ||| last

/-- `popcount(x)`: the number of 1 bits (R12). -/
def popcount {w : Nat} (x : BitVec w) : Nat := (List.range w).countP (fun k => x.getLsbD k)

/-- `hamming(x, y) = popcount(x XOR y)` (R12). -/
def hamming (x y : Word) : Nat := popcount (x ^^^ y)

/-- A boolean as a result word: 1 true, 0 false (R26, R87). -/
def boolWord (t : Bool) : Word := if t then 1 else 0

/-- `OddMod(n)`: `n[0] = 1` (R208). -/
def oddMod (n : Word) : Bool := n.getLsbD 0

/-- `InvOk(n, n_inv)`: `(n * n_inv) mod 2^64 = 1` (R208). -/
def invOk (n nInv : Word) : Bool := n * nInv == 1

/-- `OneOk(n, one)`: `one = 2^64 mod n` (R208). -/
def oneOk (n one : Word) : Bool := one.toNat == 2 ^ 64 % n.toNat

/-- `Res(v, n)`: `v < n` (R208). -/
def isResidue (v n : Word) : Bool := v.toNat < n.toNat

end Sys2Proof.Machine
end

