-- ==== Sys2Proof/Config.lean ====
section
/-! DEFINITION. What an implementation of the unit fixes: the parameter record `Params` (R9) and the free values the spec
leaves open. A parameter's value is held in `Machine.State.params` (R20(a)), so every claim over all states holds for every
parameter record. -/

namespace Sys2Proof

/-- The default `CAND`: all bytes of population count 4, ascending (R9, D9). PRESUMED by the spec itself (entry G7). -/
def Config.defaultCand : List Byte :=
  ((List.range 256).map (BitVec.ofNat 8)).filter (fun b => Machine.popcount b == 4)

/-- The parameter record of R9. A field with a default below is one the spec gives that default (D9, D10, D11). -/
structure Params where
  /-- `SECRET_DEFAULT[0..8]`, OPEN (D6). -/
  secretDefault : SecretTable
  /-- `DEFAULT_SEED`, OPEN (D7). -/
  defaultSeed : Word
  /-- `SEED_WHITEN`, OPEN (D7). -/
  seedWhiten : Word
  /-- `PRNG_K0`, OPEN (D8). -/
  prngK0 : Word
  /-- `PRNG_K1`, OPEN (D8). -/
  prngK1 : Word
  /-- `CAND[0..CAND_LEN-1]`, OPEN with default (D9); `CAND_LEN` is its length. -/
  cand : List Byte := Config.defaultCand
  /-- `STRIDE_IDX[0..6]`, OPEN with default (D10); that each index is in 0..8 (R10(d)) is the type. -/
  strideIdx : Vector (Fin 9) 7 := #v[0, 1, 2, 3, 4, 5, 6]
  /-- `RETRY_LIMIT`, OPEN with default absent (D11). -/
  retryLimit : Option Nat := none
deriving DecidableEq, Repr

/-- Which of a hash command's reads a byte is fetched for: the start windows, lanes and strides (`first`), the middle byte of a
1-to-3-byte message (`middle`), the end windows and the final read (`last`). No offset is fetched twice under one tag, so tag
and offset together name one read (R58, R163). -/
inductive ReadPass where
  | first | middle | last
deriving DecidableEq, Repr

/-- Free value (R62, U4): which of the values a byte has held since acceptance a read of it returns, "chosen afresh for each
read". The arguments are the model's count of hash commands run, the read's pass and its offset. See log entry 6. -/
opaque Config.staleChoice : Nat → ReadPass → Nat → Nat

end Sys2Proof
end

