-- ==== Sys2Proof/Syntax.lean ====
section
/-! DEFINITION. The unit's commands (R83) and the faults a command can end with (R261). -/

namespace Sys2Proof

/-- The 15 commands of R83, one constructor per row of the opcode map, operands in descriptor order. Each operand is a full
64-bit word carried in the descriptor (R81); `data` is the message space and is no operand (R85). -/
inductive Instr where
  /-- `MUL128 a, b -> lo, hi` (R111). -/
  | mul128 (a b : Word)
  /-- `MIX a, b -> r` (R114). -/
  | mix (a b : Word)
  /-- `MUM a, b -> a', b'` (R115). -/
  | mum (a b : Word)
  /-- `RAND s -> r, s'` (R132). -/
  | rand (s : Word)
  /-- `HASH len, msg -> digest` (R170). -/
  | hash (len : Word)
  /-- `HASHS len, seed, msg -> digest` (R171). -/
  | hashs (len seed : Word)
  /-- `HASHK len, seed, k0, ..., k8, msg -> digest` (R172, R84). -/
  | hashk (len seed : Word) (secret : SecretTable)
  /-- `MINV n -> n_inv` (R192). -/
  | minv (n : Word)
  /-- `TOMONT x, n -> xm` (R195). -/
  | tomont (x n : Word)
  /-- `MONE n -> one` (R205). -/
  | mone (n : Word)
  /-- `MMUL a, b, n, n_inv -> r` (R197). -/
  | mmul (a b n nInv : Word)
  /-- `MPOW base, exp, n, n_inv, one -> r` (R199). -/
  | mpow (base exp n nInv one : Word)
  /-- `SPRP n, a, n_inv, one -> t` (R201). -/
  | sprp (n a nInv one : Word)
  /-- `ISPRIME n -> t` (R204). -/
  | isprime (n : Word)
  /-- `MKSEC seed -> k0, ..., k8` (R241). -/
  | mksec (seed : Word)
deriving DecidableEq, Repr

/-- The faults of R261 that end a command and are latched in `STATUS`. (`Refused`, 0x0F, is the answer to a descriptor that
arrives after one of these and is never latched: R262.) -/
inductive CommandFault where
  /-- 0x01 (R263). -/
  | illegalCommand
  /-- 0x02 (R264). -/
  | frameFault
  /-- 0x03 (R265). -/
  | spanFault
  /-- 0x04 (R266). -/
  | domainFault
  /-- 0x05 (R267). -/
  | genFail
deriving DecidableEq, Repr

end Sys2Proof
end

