-- ==== Sys2Proof/WellFormed.lean ====
section
/-! DEFINITION. What makes a command, a parameter record and a host's offer well formed. The unit checks none of the parameter
constraints (R10: "nothing in the command semantics checks them"); claims that need one take it as a hypothesis. -/

namespace Sys2Proof

/-- A command of `Instr` is always well formed: every operand is a full descriptor word, with no sub-field, register number or
reserved bit to check (R81, R88), and a secret table has nine words by its type. -/
def Instr.wellFormed (_ : Instr) : Bool := true

/-- R27(i): each word is odd. -/
def SecretTable.allOdd (S : SecretTable) : Bool := S.toList.all (fun w => w.getLsbD 0)

/-- R27(ii): each word has exactly 32 bits set. -/
def SecretTable.allPopcount32 (S : SecretTable) : Bool := S.toList.all (fun w => Machine.popcount w == 32)

/-- R27(iii): every pair of distinct positions holds words at Hamming distance exactly 32. -/
def SecretTable.allDistance32 (S : SecretTable) : Bool :=
  decide (S.toList.Pairwise (fun x y => Machine.hamming x y = 32))

/-- R27(iv): each word is prime. -/
def SecretTable.AllPrime (S : SecretTable) : Prop := ∀ w ∈ S.toList, Nat.Prime w.toNat

/-- A valid secret table (R27). -/
structure SecretTable.Valid (S : SecretTable) : Prop where
  odd : S.allOdd = true
  popcount : S.allPopcount32 = true
  distance : S.allDistance32 = true
  prime : S.AllPrime

/-- R10(b): `DEFAULT_SEED` and `SEED_WHITEN` are each a word of `SECRET_DEFAULT`. -/
def Params.seedsInTable (p : Params) : Bool :=
  p.secretDefault.toList.contains p.defaultSeed && p.secretDefault.toList.contains p.seedWhiten

/-- R10(c): `CAND_LEN ≥ 1` and every entry has population count exactly 4. -/
def Params.candOk (p : Params) : Bool :=
  !p.cand.isEmpty && p.cand.all (fun b => Machine.popcount b == 4)

/-- R10(e): `RETRY_LIMIT`, when present, is at least 1. -/
def Params.retryOk (p : Params) : Bool := p.retryLimit.all (fun n => 1 ≤ n)

/-- The constraints of R10; (d) is the type of `strideIdx`. -/
structure Params.Valid (p : Params) : Prop where
  table : p.secretDefault.Valid
  seeds : p.seedsInTable = true
  cand : p.candOk = true
  retry : p.retryOk = true

/-- A parameter record together with R10's constraints. -/
abbrev ValidParams := { p : Params // p.Valid }

/-- An extent a host can present: offsets are 64-bit, so at most `2^64` bytes are readable (R50, R51). -/
def extentOk (ext : Nat) : Bool := ext ≤ 2 ^ 64

end Sys2Proof
end

