-- ==== Sys2Proof/Decode.lean ====
section
/-! DEFINITION. Descriptors: the opcode map (R83), the decoder, total on any frame of words (R92), the encoder (R81), and the
opcode table's view of a descriptor as one number. A descriptor is a list of 64-bit words (U6); words have no byte order
(R55, R80). -/

namespace Sys2Proof

/-- `OPC`: bits 7:0 of a header (R82). -/
def headerOpc (header : Word) : BitVec 8 := header.extractLsb' 0 8

/-- `RSV`: bits 63:8 of a header (R82). -/
def headerRsv (header : Word) : BitVec 56 := header.extractLsb' 8 56

/-- One row of the opcode map (R83): the operation code, how many operand words it takes, how many result words it gives, and
the command its operand words name in the order of R83. -/
structure OpcodeRow where
  opc : BitVec 8
  nops : Nat
  nres : Nat
  bind : List Word → Option Instr

/-- A row's binding of one operand word (R92 step 4). -/
def bind1 (f : Word → Instr) : List Word → Option Instr
  | [a] => some (f a)
  | _ => none

/-- A row's binding of two operand words (R92 step 4). -/
def bind2 (f : Word → Word → Instr) : List Word → Option Instr
  | [a, b] => some (f a b)
  | _ => none

/-- A row's binding of four operand words (R92 step 4). -/
def bind4 (f : Word → Word → Word → Word → Instr) : List Word → Option Instr
  | [a, b, c, d] => some (f a b c d)
  | _ => none

/-- A row's binding of five operand words (R92 step 4). -/
def bind5 (f : Word → Word → Word → Word → Word → Instr) : List Word → Option Instr
  | [a, b, c, d, e] => some (f a b c d e)
  | _ => none

/-- `HASHK`'s binding: `len`, `seed`, then `secret[k]` in operand word `3 + k` (R84). -/
def bindHashk : List Word → Option Instr
  | [len, seed, k0, k1, k2, k3, k4, k5, k6, k7, k8] => some (.hashk len seed #v[k0, k1, k2, k3, k4, k5, k6, k7, k8])
  | _ => none

/-- The opcode map of R83. -/
def opcodeRows : List OpcodeRow :=
  [⟨0x01, 2, 2, bind2 .mul128⟩,
   ⟨0x02, 2, 1, bind2 .mix⟩,
   ⟨0x03, 2, 2, bind2 .mum⟩,
   ⟨0x08, 1, 2, bind1 .rand⟩,
   ⟨0x10, 1, 1, bind1 .hash⟩,
   ⟨0x11, 2, 1, bind2 .hashs⟩,
   ⟨0x12, 11, 1, bindHashk⟩,
   ⟨0x20, 1, 1, bind1 .minv⟩,
   ⟨0x21, 2, 1, bind2 .tomont⟩,
   ⟨0x22, 1, 1, bind1 .mone⟩,
   ⟨0x23, 4, 1, bind4 .mmul⟩,
   ⟨0x24, 5, 1, bind5 .mpow⟩,
   ⟨0x25, 4, 1, bind4 .sprp⟩,
   ⟨0x26, 1, 1, bind1 .isprime⟩,
   ⟨0x30, 1, 9, bind1 .mksec⟩]

/-- The row of R83 that an operation code matches, if it is legal (R89). -/
def opcodeRow (opc : BitVec 8) : Option OpcodeRow := opcodeRows.find? (fun row => row.opc == opc)

/-- The decoder: steps (1) to (4) of R92 in their order. It is total and rejects by the fault's name (R89, R90, R263, R264).
The last `frameFault` is never the answer: a row binds every operand list of its own length. -/
def decodeFrame : List Word → Except CommandFault Instr
  | [] => .error .frameFault
  | header :: operands =>
    if headerRsv header ≠ 0 then .error .illegalCommand
    else match opcodeRow (headerOpc header) with
      | none => .error .illegalCommand
      | some row =>
        if operands.length ≠ row.nops then .error .frameFault
        else match row.bind operands with
          | some i => .ok i
          | none => .error .frameFault

/-- A command's operation code (R83). -/
def Instr.opc : Instr → BitVec 8
  | .mul128 _ _ => 0x01
  | .mix _ _ => 0x02
  | .mum _ _ => 0x03
  | .rand _ => 0x08
  | .hash _ => 0x10
  | .hashs _ _ => 0x11
  | .hashk _ _ _ => 0x12
  | .minv _ => 0x20
  | .tomont _ _ => 0x21
  | .mone _ => 0x22
  | .mmul _ _ _ _ => 0x23
  | .mpow _ _ _ _ _ => 0x24
  | .sprp _ _ _ _ => 0x25
  | .isprime _ => 0x26
  | .mksec _ => 0x30

/-- A command's operand words, in the order of R83 (R84 for `HASHK`). -/
def Instr.operands : Instr → List Word
  | .mul128 a b => [a, b]
  | .mix a b => [a, b]
  | .mum a b => [a, b]
  | .rand s => [s]
  | .hash len => [len]
  | .hashs len seed => [len, seed]
  | .hashk len seed secret => len :: seed :: secret.toList
  | .minv n => [n]
  | .tomont x n => [x, n]
  | .mone n => [n]
  | .mmul a b n nInv => [a, b, n, nInv]
  | .mpow base exp n nInv one => [base, exp, n, nInv, one]
  | .sprp n a nInv one => [n, a, nInv, one]
  | .isprime n => [n]
  | .mksec seed => [seed]

/-- The encoder: the header with `RSV = 0`, then the operand words (R81, R82). -/
def encode (i : Instr) : List Word := i.opc.setWidth 64 :: i.operands

/-- The descriptor whose bits the opcode table numbers as `w`: bit 0 the least significant of word 0, each later word counting
on from it, the bits from `nbits` up zero. A legal header's frame has the length the header asks for (R91); any other header
is a frame of its own. -/
def frameOfTableWord (nbits w : Nat) : List Word :=
  let bits := w % 2 ^ nbits
  let header : Word := BitVec.ofNat 64 bits
  let nops := match opcodeRow (headerOpc header) with
    | some row => row.nops
    | none => 0
  header :: (List.range nops).map (fun k => BitVec.ofNat 64 (bits / 2 ^ (64 * (k + 1))))

/-- The command the decoder reads from the opcode table's number `w` of `nbits` bits; `none` where it refuses. -/
def decodeTableWord (nbits w : Nat) : Option Instr :=
  match decodeFrame (frameOfTableWord nbits w) with
  | .ok i => some i
  | .error _ => none

end Sys2Proof
end

