-- ==== Sys2Proof/Config/Witness.lean ====
section
/-! DEFINITION. The parameter record the machine holds at reset: an opaque record of which R10's constraints, and nothing else,
can be proved. Lean asks that a valid record exists; T1 of 95_test_vectors.md section 0 shows it, and is the tests' record. -/

namespace Sys2Proof

set_option Elab.async false

/-- `a ^ e mod m` by repeated squaring, `fuel` bounding the bits of `e`. -/
def Config.powMod (m : Nat) : Nat → Nat → Nat → Nat
  | 0, _, _ => 1 % m
  | fuel + 1, a, e =>
    let h := Config.powMod m fuel (a * a % m) (e / 2)
    if e % 2 = 1 then a * h % m else h

theorem Config.powMod_eq (m fuel : Nat) :
    ∀ a e, e < 2 ^ fuel → Config.powMod m fuel a e = a ^ e % m := by
  induction fuel with
  | zero => intro a e he; simp [Config.powMod, show e = 0 by omega]
  | succ k ih =>
    intro a e he
    have half : Config.powMod m k (a * a % m) (e / 2) = (a * a) ^ (e / 2) % m := by
      rw [ih _ _ (by rw [pow_succ] at he; omega), ← Nat.pow_mod]
    have split : e = 2 * (e / 2) + e % 2 := (Nat.div_add_mod e 2).symm
    simp only [Config.powMod, half]
    by_cases odd : e % 2 = 1
    · rw [if_pos odd, Nat.mul_mod_mod]
      conv_rhs => rw [split, odd, pow_succ, pow_mul, pow_two, Nat.mul_comm]
    · rw [if_neg odd]
      conv_rhs => rw [split, show e % 2 = 0 by omega, Nat.add_zero, pow_mul, pow_two]

/-- Lucas's test of `p` with base `a`, where `qs` lists the prime factors of `p - 1` with repetition. -/
def Config.lucasCheck (p a : Nat) (qs : List Nat) : Bool :=
  decide (1 < p) && decide (p < 2 ^ 64) && qs.prod == p - 1 && Config.powMod p 64 a (p - 1) == 1 &&
    qs.all (fun q => Config.powMod p 64 a ((p - 1) / q) != 1)

theorem Config.prime_of_lucasCheck {p : Nat} (a : Nat) (qs : List Nat)
    (check : Config.lucasCheck p a qs = true) (primes : ∀ q ∈ qs, Nat.Prime q) : Nat.Prime p := by
  simp only [Config.lucasCheck, Bool.and_eq_true, decide_eq_true_eq, beq_iff_eq, List.all_eq_true,
    bne_iff_ne] at check
  obtain ⟨⟨⟨⟨one_lt, lt⟩, prod⟩, fermat⟩, orders⟩ := check
  have cast (e : Nat) : ((a : ZMod p) ^ e = 1) ↔ a ^ e % p = 1 := by
    rw [← Nat.cast_pow, ← Nat.cast_one, ZMod.natCast_eq_natCast_iff', Nat.mod_eq_of_lt one_lt]
  have fuel (e : Nat) (he : e ≤ p - 1) : Config.powMod p 64 a e = a ^ e % p :=
    Config.powMod_eq p 64 a e (by omega)
  refine lucas_primality p a ((cast _).2 (by rw [← fuel _ le_rfl]; exact fermat)) ?_
  intro q hq dvd one
  rw [← prod] at dvd
  obtain ⟨r, hr, q_dvd⟩ := (Prime.dvd_prod_iff hq.prime).1 dvd
  have : q = r := (Nat.prime_dvd_prime_iff_eq hq (primes r hr)).1 q_dvd
  exact orders q (this ▸ hr) (by rw [fuel _ (Nat.div_le_self _ _)]; exact (cast _).1 one)

/-- The test instantiation T1 (95_test_vectors.md section 0; G1: no claim about real constants). -/
def Config.t1 : Params where
  secretDefault := #v[0x39D43C5C4E3A724B, 0x6596E14753CCA38B, 0xC68D954B2B339353, 0x96B4A6E45C65AA55,
    0x53711B7239553A8B, 0xC36C5A5666ACC9D1, 0x954B664B654D7447, 0x956CE82EB8D2B169, 0x78E495CA74C55539]
  defaultSeed := 0x39D43C5C4E3A724B
  seedWhiten := 0x6596E14753CCA38B
  prngK0 := 0x2D358DCCAA6C78A5
  prngK1 := 0x8BB84B93962EACC9

/-- Lucas certificates (Pratt's form): a prime, a base, the prime factors of `p - 1`; each factor has its own row further
on. The primes of T1's table stand among them. -/
def Config.certificates : List (Nat × Nat × List Nat) :=
  [(8711252276016403769, 3, [2, 2, 2, 8894623, 122423011577]),
   (122423011577, 3, [2, 2, 2, 61, 67, 463, 8087]),
   (8087, 5, [2, 13, 311]),
   (463, 3, [2, 3, 7, 11]),
   (67, 2, [2, 3, 11]),
   (61, 2, [2, 2, 3, 5]),
   (8894623, 3, [2, 3, 11, 19, 41, 173]),
   (10767236096502968681, 3, [2, 2, 2, 5, 13, 23, 900270576630683]),
   (900270576630683, 2, [2, 450135288315341]),
   (450135288315341, 2, [2, 2, 5, 619, 2729, 13323517]),
   (13323517, 2, [2, 2, 3, 101, 10993]),
   (10993, 7, [2, 2, 2, 2, 3, 229]),
   (229, 6, [2, 2, 3, 19]),
   (101, 2, [2, 2, 5, 5]),
   (2729, 3, [2, 2, 2, 11, 31]),
   (619, 2, [2, 3, 103])] ++
  [(10757804608912716871, 3, [2, 3, 5, 17, 181, 45179, 2579516363]),
   (2579516363, 2, [2, 1289758181]),
   (1289758181, 2, [2, 2, 5, 29, 53, 41957]),
   (41957, 2, [2, 2, 17, 617]),
   (617, 3, [2, 2, 2, 7, 11]),
   (45179, 6, [2, 7, 7, 461]),
   (461, 2, [2, 2, 5, 23]),
   (181, 2, [2, 2, 3, 3, 5]),
   (14081729462016985553, 3, [2, 2, 2, 2, 7, 103, 1220676964460557]),
   (1220676964460557, 2, [2, 2, 3, 359, 283351198807]),
   (283351198807, 3, [2, 3, 3, 13, 14107, 85837]),
   (85837, 2, [2, 2, 3, 23, 311]),
   (311, 17, [2, 5, 31]),
   (14107, 2, [2, 3, 2351]),
   (2351, 13, [2, 5, 5, 47]),
   (47, 5, [2, 23])] ++
  [(359, 7, [2, 179]),
   (179, 2, [2, 89]),
   (89, 3, [2, 2, 2, 11]),
   (103, 5, [2, 3, 17]),
   (6012617154918431371, 2, [2, 3, 5, 200420571830614379]),
   (200420571830614379, 2, [2, 23, 2237, 5867, 331972717]),
   (331972717, 7, [2, 2, 3, 27664393]),
   (27664393, 5, [2, 2, 2, 3, 7, 59, 2791]),
   (2791, 6, [2, 3, 3, 5, 31]),
   (59, 2, [2, 29]),
   (5867, 5, [2, 7, 419]),
   (419, 2, [2, 11, 19]),
   (2237, 2, [2, 2, 13, 43]),
   (23, 5, [2, 11]),
   (10859488101230029397, 2, [2, 2, 19, 4909, 29107354111219]),
   (29107354111219, 2, [2, 3, 3, 1617075228401])] ++
  [(1617075228401, 3, [2, 2, 2, 2, 5, 5, 167, 2591, 9343]),
   (9343, 5, [2, 3, 3, 3, 173]),
   (173, 2, [2, 2, 43]),
   (43, 3, [2, 3, 7]),
   (2591, 7, [2, 5, 7, 37]),
   (37, 2, [2, 2, 3, 3]),
   (167, 5, [2, 83]),
   (4909, 6, [2, 2, 3, 409]),
   (409, 21, [2, 2, 2, 3, 17]),
   (14307255741305819987, 2, [2, 7153627870652909993]),
   (7153627870652909993, 3, [2, 2, 2, 17, 12101, 34651, 125444147]),
   (125444147, 2, [2, 62722073]),
   (62722073, 3, [2, 2, 2, 7, 1021, 1097]),
   (1097, 3, [2, 2, 2, 137]),
   (137, 3, [2, 2, 2, 17]),
   (1021, 10, [2, 2, 3, 5, 17])] ++
  [(34651, 2, [2, 3, 3, 5, 5, 7, 11]),
   (12101, 3, [2, 2, 5, 5, 11, 11]),
   (7320285940802167691, 2, [2, 5, 7, 191, 4067737, 134599601]),
   (134599601, 3, [2, 2, 2, 2, 5, 5, 336499]),
   (336499, 3, [2, 3, 17, 3299]),
   (3299, 2, [2, 17, 97]),
   (97, 5, [2, 2, 2, 2, 2, 3]),
   (17, 3, [2, 2, 2, 2]),
   (4067737, 5, [2, 2, 2, 3, 169489]),
   (169489, 14, [2, 2, 2, 2, 3, 3, 11, 107]),
   (107, 2, [2, 53]),
   (11, 2, [2, 5]),
   (191, 19, [2, 5, 19]),
   (19, 2, [2, 3, 3]),
   (4167021922371662411, 6, [2, 5, 7, 31, 31, 53, 924437, 1264303]),
   (1264303, 5, [2, 3, 3, 3, 13, 1801])] ++
  [(1801, 11, [2, 2, 2, 3, 3, 5, 5]),
   (924437, 2, [2, 2, 231109]),
   (231109, 2, [2, 2, 3, 19259]),
   (19259, 2, [2, 9629]),
   (9629, 2, [2, 2, 29, 83]),
   (83, 2, [2, 41]),
   (41, 6, [2, 2, 2, 5]),
   (29, 2, [2, 2, 7]),
   (53, 2, [2, 2, 13]),
   (13, 2, [2, 2, 3]),
   (31, 3, [2, 3, 5]),
   (7, 3, [2, 3]),
   (3, 2, [2]),
   (5, 2, [2, 2]),
   (2, 1, [])]

/-- Every row passes Lucas's test and every factor it uses is certified by a later row. -/
def Config.certified : List (Nat × Nat × List Nat) → Bool
  | [] => true
  | (p, a, qs) :: rest =>
    Config.lucasCheck p a qs && qs.all (fun q => rest.any (fun row => row.1 == q)) && Config.certified rest

theorem Config.prime_of_certified : ∀ rows, Config.certified rows = true → ∀ row ∈ rows, Nat.Prime row.1
  | [], _, _, mem => by cases mem
  | (p, a, qs) :: rest, check, row, mem => by
    simp only [Config.certified, Bool.and_eq_true, List.all_eq_true, List.any_eq_true, beq_iff_eq] at check
    obtain ⟨⟨lucas, factors⟩, below⟩ := check
    have ih := Config.prime_of_certified rest below
    rcases List.mem_cons.1 mem with rfl | mem
    · refine Config.prime_of_lucasCheck a qs lucas fun q hq => ?_
      obtain ⟨r, hr, rfl⟩ := factors q hq
      exact ih r hr
    · exact ih row mem

theorem Config.t1_table_prime : Config.t1.secretDefault.AllPrime := by
  have sound := Config.prime_of_certified Config.certificates (by decide +kernel)
  have listed : Config.t1.secretDefault.toList.all
      (fun w => Config.certificates.any (fun row => row.1 == w.toNat)) = true := by decide +kernel
  intro w hw
  obtain ⟨row, hrow, eq⟩ := List.any_eq_true.1 (List.all_eq_true.1 listed w hw)
  exact beq_iff_eq.1 eq ▸ sound row hrow

theorem Config.t1_valid : Config.t1.Valid where
  table := { odd := by decide +kernel, popcount := by decide +kernel, distance := by decide +kernel,
             prime := Config.t1_table_prime }
  seeds := by decide +kernel
  cand := by decide +kernel
  retry := by decide +kernel

/-- The implementation's parameters: every field OPEN (U5), R10's constraints known. It has no body, so nothing about its
fields but R10 can be proved. -/
opaque Config.openParams [Inhabited ValidParams] : ValidParams

/-- The parameter record of the unit at hand; `t1` only shows that a valid record exists. -/
def Config.params : Params := (@Config.openParams ⟨⟨Config.t1, Config.t1_valid⟩⟩).val

theorem Config.params_valid : Config.params.Valid :=
  (@Config.openParams ⟨⟨Config.t1, Config.t1_valid⟩⟩).property

end Sys2Proof
end

