-- ==== Sys2Proof/Machine/State.lean ====
section
/-! DEFINITION. The machine's state (R20): the constants `Params`, the persistent register `STATUS`, the command in progress
with the working registers that outlive one step, the message space, and the model's own fields that stand for the host. Every
other working register of R23 is a local of the one atomic transition that uses it (R7, R37). -/

namespace Sys2Proof.Machine

/-- The message space `MSG` (R50): byte offset and byte, offsets strictly rising, no entry equal to `unlistedByte`. -/
abbrev Memory := List Host.Cell

/-- `STATUS` (R21), its three fields; the reserved bits read as 0 (`Status.word`). -/
structure Status where
  /-- Bit 0: 1 from the acceptance of a descriptor until its response is delivered. -/
  busy : Bool
  /-- Bit 1: 1 once any command has ended with a fault; sticky. -/
  fault : Bool
  /-- Bits 15:8: code of the first fault since reset. -/
  ecode : BitVec 8
deriving DecidableEq, Repr

/-- The working registers of a `MKSEC` in progress (R32). `idx` is the number of words in `out`, which has a value only for
`j < idx`. -/
structure Generator where
  /-- The PRNG state word `s` (R30, R242). -/
  s : Word
  /-- `out[0..idx-1]`: the words accepted so far, first accepted first. -/
  out : List Word
  /-- `tries`: candidates rejected for the current word; stays 0 while `RETRY_LIMIT` is absent (R247). -/
  tries : Nat
deriving DecidableEq, Repr

/-- What the unit is doing: at most one command is in progress (R22). -/
inductive Activity where
  /-- No command in progress: every working register holds no value (R36). -/
  | idle
  /-- A descriptor has been accepted and not yet run; the operand latches hold its frame. -/
  | accepted (frame : List Word)
  /-- `MKSEC` is searching (R241, R280: "still running"). -/
  | generating (g : Generator)
deriving DecidableEq, Repr

/-- One act of the host at the unit's ports. The host is outside the unit; a list of these stands for what it will do. -/
inductive HostInput where
  /-- It offers a framed descriptor on `CMDQ`, presenting the extent `EXT` beside it (R51, R80, R85). -/
  | offer (frame : List Word) (ext : Nat)
  /-- It writes one byte of the message (R62, R294). -/
  | write (off : Word) (b : Byte)
  /-- It does nothing for one step. -/
  | wait
  /-- It asserts `RESET` (R290). -/
  | reset
deriving DecidableEq, Repr

/-- The whole machine. -/
structure State where
  /-- The parameter record, held in read-only storage (R20(a)). -/
  params : Params
  /-- `STATUS` (R21). -/
  status : Status
  /-- The command in progress and its working registers (R22, R23). -/
  activity : Activity
  /-- `EXT`, the extent presented with the descriptor last accepted (R51). -/
  ext : Nat
  /-- The message space (R50); the unit never writes it (R59). -/
  msg : Memory
  /-- MODEL'S OWN: the values message bytes held, since the acceptance of the command in progress, before the host changed
  them (R62, U4). -/
  stale : List Host.Cell
  /-- MODEL'S OWN: how many hash commands have run, so that each has free values of its own (U4). -/
  draws : Nat
  /-- MODEL'S OWN: the responses delivered on `RSPQ` since reset, oldest first (R86). The port is not storage (R22): this is
  what the host has received. -/
  rspq : List (List Word)
  /-- MODEL'S OWN: what the host will do at the ports, next act first. -/
  host : List HostInput
deriving DecidableEq, Repr

/-- Why the machine stops. A fault of the spec (R261) is no stop: it is a next state with a response and `STATUS` latched. -/
inductive Fault where
  /-- Raised by a hash command if a `MemRead` does not lie inside the message's `len` bytes, which R52 to R54 require. R162 says
  that it never happens. Safe. -/
  | readOutsideSpan
deriving DecidableEq, Repr

/-- Why an instruction has no meaning. -/
inductive Refusal where
  /-- Raised by `exec` for an instruction that is not modelled; no arm raises it now. Safe. -/
  | notModelled (mnemonic : String)
deriving DecidableEq, Repr

/-- The machine right after reset (R36, R290), with no host act to come and no message presented. -/
def State.reset : State where
  params := Config.params
  status := { busy := false, fault := false, ecode := 0 }
  activity := .idle
  ext := 0
  msg := []
  stale := []
  draws := 0
  rspq := []
  host := []

end Sys2Proof.Machine
end

