-- ==== Sys2Proof/Machine/Flags.lean ====
section
/-! DEFINITION. The unit has no condition codes (R26). Its flag-like state is `STATUS` (R21); here are the fault codes (R261), the
word the host reads from `STATUS`, and the response header (R86). -/

namespace Sys2Proof.Machine

/-- The `ECODE` of a latched fault (R261). -/
def faultCode : CommandFault → BitVec 8
  | .illegalCommand => 0x01
  | .frameFault => 0x02
  | .spanFault => 0x03
  | .domainFault => 0x04
  | .genFail => 0x05

/-- The `ECODE` of a refusal, which is never latched (R261, R262). -/
def refusedCode : BitVec 8 := 0x0F

/-- The 64-bit word the host reads from `STATUS` (R21): `BUSY` in bit 0, `FAULT` in bit 1, `ECODE` in bits 15:8, the rest 0. -/
def Status.word (st : Status) : Word :=
  (st.ecode.setWidth 64 <<< 8) ||| (if st.fault then 2 else 0) ||| (if st.busy then 1 else 0)

/-- `STATUS` when a command ends with fault `f`: the first fault since reset is latched, a later one changes nothing (R262). -/
def Status.latch (st : Status) (f : CommandFault) : Status :=
  if st.fault then st else { st with fault := true, ecode := faultCode f }

/-- Word 0 of a response (R86): `OPC` in bits 7:0, `ECODE` in bits 15:8, the rest 0. -/
def responseHeader (opc ecode : BitVec 8) : Word := (ecode.setWidth 64 <<< 8) ||| opc.setWidth 64

/-- `ECODE` of a response header (R86). -/
def responseEcode (header : Word) : BitVec 8 := header.extractLsb' 8 8

/-- `OPC` echoed in the response to a frame: bits 7:0 of its word 0, and 0 for an empty frame (R86, R262). -/
def frameOpc : List Word → BitVec 8
  | [] => 0
  | header :: _ => headerOpc header

end Sys2Proof.Machine
end

