-- ==== Sys2Proof/Machine/Ops.lean ====
section
/-! DEFINITION. The named operations over the message space and the ports: the message reads (R52 to R54), the delivery of a
response (R86), fault entry (R270), refusal (R262), acceptance (R22), reset (R290) and the host's own write. There is no return
from a fault but reset (R271). -/

namespace Sys2Proof.Machine

/-- What an unlisted offset of the message space reads as. See log entry 4. -/
def unlistedByte : Byte := 0

/-- `MSG[a]` (R50). -/
def Memory.read : Memory → Nat → Byte
  | [], _ => unlistedByte
  | (k, b) :: rest, a => if k = a then b else Memory.read rest a

/-- The message with byte `a` set to `b`, in canonical form. Only the host does this (R59, R62). -/
def Memory.write : Memory → Nat → Byte → Memory
  | [], a, b => if b = unlistedByte then [] else [(a, b)]
  | (k, c) :: rest, a, b =>
    if a < k then (if b = unlistedByte then (k, c) :: rest else (a, b) :: (k, c) :: rest)
    else if a = k then (if b = unlistedByte then rest else (a, b) :: rest)
    else (k, c) :: Memory.write rest a b

/-- The canonical form: offsets 64-bit (R50) and strictly rising, no byte equal to what an unlisted offset reads as. -/
def Memory.wf (m : Memory) : Bool :=
  decide (m.Pairwise (fun x y => x.1 < y.1)) && m.all (fun c => decide (c.1 < 2 ^ 64) && c.2 != unlistedByte)

/-- One byte as a hash command's read sees it: the byte of the message; or, if the host has changed that byte since acceptance,
any of the values it has held, chosen by a free value for this read alone (R62, R294, U4). -/
def State.fetchByte (s : State) (pass : ReadPass) (off : Nat) : Byte :=
  let old := (s.stale.filter (fun c => c.1 == off)).map (fun c => c.2)
  match old with
  | [] => s.msg.read off
  | _ :: _ => old.getD (Config.staleChoice s.draws pass off % (old.length + 1)) (s.msg.read off)

/-- `MemRead(off, n)` for a message of `len` bytes (R13, R52 to R54): little-endian, zero-extended, no alignment asked (R56),
inside the message or not at all. -/
def State.memRead (s : State) (len : Word) (pass : ReadPass) (off : Word) (n : Nat) : Option Word :=
  if off.toNat + n ≤ len.toNat then
    some (leWord ((List.range n).map (fun k => s.fetchByte pass (off.toNat + k))))
  else none

/-- The end of a command: its response goes out whole on `RSPQ`, `BUSY` returns to 0 and no working register holds a value
(R21, R22, R37). -/
def State.finish (s : State) (response : List Word) : State :=
  { s with rspq := s.rspq ++ [response], status := { s.status with busy := false }, activity := .idle, stale := [] }

/-- A command that completes: header with `ECODE = 0`, then its result words (R86). -/
def State.deliver (s : State) (opc : BitVec 8) (results : List Word) : State :=
  s.finish (responseHeader opc 0 :: results)

/-- Fault entry (R270): `STATUS` latched (R262), the response header alone (R86), every working register discarded, `BUSY`
cleared; nothing else is saved and control goes nowhere. -/
def State.raiseFault (s : State) (opc : BitVec 8) (f : CommandFault) : State :=
  { s with status := s.status.latch f }.finish [responseHeader opc (faultCode f)]

/-- The answer to a descriptor that arrives while `STATUS.FAULT = 1`: a header with `ECODE = 0x0F`, `STATUS.FAULT` and
`STATUS.ECODE` unchanged (R262, R271). -/
def State.refuse (s : State) (opc : BitVec 8) : State :=
  s.finish [responseHeader opc refusedCode]

/-- Acceptance of a descriptor: `BUSY` becomes 1, the frame and the extent are latched, and the message's bytes "as they stood
at acceptance" are the current ones (R21, R22, R51, R62). -/
def State.accept (s : State) (frame : List Word) (ext : Nat) : State :=
  { s with status := { s.status with busy := true }, activity := .accepted frame, ext := ext, stale := [] }

/-- `RESET` (R290): `STATUS` all 0, both ports empty, a command in progress abandoned with no response; the parameters and the
message space are not touched. -/
def State.afterReset (s : State) : State :=
  { s with status := { busy := false, fault := false, ecode := 0 }, activity := .idle, stale := [], rspq := [] }

/-- The host writes one message byte; while `BUSY = 1` the value it replaces stays one a read may still return (R62, U4). -/
def State.hostWrite (s : State) (off : Word) (b : Byte) : State :=
  { s with msg := s.msg.write off.toNat b,
           stale := if s.status.busy then (off.toNat, s.msg.read off.toNat) :: s.stale else s.stale }

/-- The host's next act has been taken. -/
def State.withHost (s : State) (rest : List HostInput) : State := { s with host := rest }

/-- `MKSEC`'s working registers take new values; the command goes on (R241). -/
def State.generate (s : State) (g : Generator) : State := { s with activity := .generating g }

/-- A hash command has used its free values (U4). -/
def State.countDraw (s : State) : State := { s with draws := s.draws + 1 }

end Sys2Proof.Machine
end

