-- ==== Sys2Proof/Machine/Mixer.lean ====
section
/-! DEFINITION. The multiply-mix unit MX (40_mixer.md) and its commands `MUL128`, `MIX`, `MUM`. -/

namespace Sys2Proof.Machine

/-- `mul128(a, b) -> (lo, hi)`: the exact 128-bit product, its two halves (R110). -/
def mul128 (a b : Word) : Word × Word :=
  let P := a.toNat * b.toNat
  (BitVec.ofNat 64 (P % 2 ^ 64), BitVec.ofNat 64 (P / 2 ^ 64))

/-- `mix(a, b) = lo XOR hi` (R112). -/
def mix (a b : Word) : Word :=
  let (lo, hi) := mul128 a b
  lo ^^^ hi

/-- `mum(a, b) = (lo XOR hi, hi)`, both from the old `a` and `b` (R113). -/
def mum (a b : Word) : Word × Word :=
  let (lo, hi) := mul128 a b
  (lo ^^^ hi, hi)

/-- `MUL128 a, b -> lo, hi` (R111). -/
def execMul128 (a b : Word) (s : State) : Host.Outcome State Fault Refusal :=
  .next (s.deliver 0x01 [(mul128 a b).1, (mul128 a b).2])

/-- `MIX a, b -> r` (R114). -/
def execMix (a b : Word) (s : State) : Host.Outcome State Fault Refusal :=
  .next (s.deliver 0x02 [mix a b])

/-- `MUM a, b -> a', b'` (R115). -/
def execMum (a b : Word) (s : State) : Host.Outcome State Fault Refusal :=
  .next (s.deliver 0x03 [(mum a b).1, (mum a b).2])

end Sys2Proof.Machine
end

