-- ==== Sys2Proof/Machine/Hash.lean ====
section
/-! DEFINITION. The hash engine LD + HF (42_hash.md) and its commands `HASH`, `HASHS`, `HASHK`. `hashCore` reads the message through
`State.memRead`, which answers nothing outside the message; R162 says that every read it makes lies inside. -/

namespace Sys2Proof.Machine

/-- `fold(seed, x, y) = seed XOR mix(seed XOR x, y)` (R142). -/
def fold (seed x y : Word) : Word := seed ^^^ mix (seed ^^^ x) y

/-- The 16-byte mix step at offset `q` with secret word `k` and running seed `z` (R152). -/
def mixstep (s : State) (len q k z : Word) : Option Word := do
  let w0 ← s.memRead len .first q 8
  let w1 ← s.memRead len .first (q + 8) 8
  return mix (w0 ^^^ k) (w1 ^^^ z)

/-- The accumulator pair of the short path: the four read shapes of R144 to R147, by `len`. -/
def shortPair (s : State) (len : Word) : Option (Word × Word) :=
  if 8 ≤ len then do
    let a ← s.memRead len .first 0 8
    let b ← s.memRead len .last (len - 8) 8
    return (a, b)
  else if 4 ≤ len then do
    let a ← s.memRead len .first 0 4
    let b ← s.memRead len .last (len - 4) 4
    return (a, b)
  else if 1 ≤ len then do
    let first ← s.memRead len .first 0 1
    let middle ← s.memRead len .middle (len >>> 1) 1
    let last ← s.memRead len .last (len - 1) 1
    return (packShort first middle last, 0)
  else return (0, 0)

/-- The lane seed set (R28): lane 0 is `seed`. -/
structure Lanes where
  seed : Word
  see1 : Word
  see2 : Word
  see3 : Word
  see4 : Word
  see5 : Word
  see6 : Word
  see7 : Word
deriving DecidableEq, Repr

/-- "all eight start from the same initial seed value" (R156). -/
def lanesInit (seed : Word) : Lanes := ⟨seed, seed, seed, seed, seed, seed, seed, seed⟩

/-- One iteration of the lane loop on the block at `p`: lane `k` takes its own 16 bytes and `S[k]` (R157). -/
def lanesBlock (s : State) (S : SecretTable) (len p : Word) (z : Lanes) : Option Lanes := do
  let seed ← mixstep s len (p + 0) S[0] z.seed
  let see1 ← mixstep s len (p + 16) S[1] z.see1
  let see2 ← mixstep s len (p + 32) S[2] z.see2
  let see3 ← mixstep s len (p + 48) S[3] z.see3
  let see4 ← mixstep s len (p + 64) S[4] z.see4
  let see5 ← mixstep s len (p + 80) S[5] z.see5
  let see6 ← mixstep s len (p + 96) S[6] z.see6
  let see7 ← mixstep s len (p + 112) S[7] z.see7
  return ⟨seed, see1, see2, see3, see4, see5, see6, see7⟩

/-- `while i > 128` (R157), from cursor `p` with `i` bytes left. `fuel` bounds the iterations; `len / 128` is enough (R161). -/
def lanesLoop (s : State) (S : SecretTable) (len : Word) : Nat → Word → Word → Lanes → Option (Word × Word × Lanes)
  | 0, p, i, z => some (p, i, z)
  | fuel + 1, p, i, z =>
    if 128 < i then do
      let z' ← lanesBlock s S len p z
      lanesLoop s S len fuel (p + 128) (i - 128) z'
    else some (p, i, z)

/-- The eight lane seeds combined, in the order of R158. -/
def lanesCombine (z : Lanes) : Word :=
  let seed := z.seed ^^^ z.see1 ^^^ z.see4 ^^^ z.see5
  let see2 := z.see2 ^^^ z.see3 ^^^ z.see6 ^^^ z.see7
  seed ^^^ see2

/-- The cursor registers and the seed between strides: `seed`, `p`, `i` (R25). -/
structure Cursor where
  seed : Word
  p : Word
  i : Word
deriving DecidableEq, Repr

/-- The sequential mix steps of one stride, 16 bytes apart from `q` on, with these secret indices (R153 to R155). -/
def strideSteps (s : State) (S : SecretTable) (len : Word) : List (Fin 9) → Word → Word → Option Word
  | [], _, seed => some seed
  | k :: ks, q, seed => do
    let seed' ← mixstep s len q S[k] seed
    strideSteps s S len ks (q + 16) seed'

/-- One stride of `size` bytes: it runs, once, if `i > size` (R153 to R155). -/
def stride (s : State) (S : SecretTable) (len size : Word) (idx : List (Fin 9)) (c : Cursor) : Option Cursor :=
  if size < c.i then do
    let seed ← strideSteps s S len idx c.p c.seed
    return ⟨seed, c.p + size, c.i - size⟩
  else some c

/-- The descending strides, 64 then 32 then 16 bytes, with their `STRIDE_IDX` entries (R153 to R155). -/
def strides (s : State) (S : SecretTable) (len : Word) (c : Cursor) : Option Cursor := do
  let idx := s.params.strideIdx
  let c64 ← stride s S len 64 [idx[0], idx[1], idx[2], idx[3]] c
  let c32 ← stride s S len 32 [idx[4], idx[5]] c64
  stride s S len 16 [idx[6]] c32

/-- The bulk path's lanes from the folded seed to the combined one (R156 to R158). -/
def bulk (s : State) (S : SecretTable) (len seed : Word) : Option Cursor := do
  let (p, i, z) ← lanesLoop s S len (len.toNat / 128) 0 len (lanesInit seed)
  return ⟨lanesCombine z, p, i⟩

/-- The final read: the last 16 bytes of the whole input (R159). -/
def finalPair (s : State) (len : Word) : Option (Word × Word) := do
  let a ← s.memRead len .last (len - 16) 8
  let b ← s.memRead len .last (len - 8) 8
  return (a ^^^ len, b)

/-- Finalization (R160). -/
def finalize (S : SecretTable) (len seed a b : Word) : Word :=
  let (a', b') := mum (a ^^^ S[1]) (b ^^^ seed)
  mix (a' ^^^ S[8]) (b' ^^^ S[1] ^^^ len)

/-- `core(S, seed, len)` of R140: length dispatch (R141), then the short path (R143 to R148), or the medium or bulk path (R150 to R159),
then finalization (R160). -/
def hashCore (s : State) (S : SecretTable) (seed len : Word) : Option Word :=
  if len ≤ 16 then do
    let (a, b) ← shortPair s len
    return finalize S len (fold seed S[0] (S[1] ^^^ len)) a b
  else do
    let folded := fold seed S[2] S[1]
    let c ← if 128 < len then bulk s S len folded else some ⟨folded, 0, len⟩
    let c' ← strides s S len c
    let (a, b) ← finalPair s len
    return finalize S len c'.seed a b

/-- The hash commands' common body: the span check before any read (R173), then `hashCore`. -/
def runHash (opc : BitVec 8) (S : SecretTable) (seed len : Word) (s : State) : Host.Outcome State Fault Refusal :=
  if s.ext < len.toNat then .next (s.raiseFault opc .spanFault)
  else match hashCore s S seed len with
    | some digest => .next (s.countDraw.deliver opc [digest])
    | none => .fault .readOutsideSpan

/-- `HASH len, msg -> digest`: default table, default seed, whitened (R170). -/
def execHash (len : Word) (s : State) : Host.Outcome State Fault Refusal :=
  runHash 0x10 s.params.secretDefault (s.params.defaultSeed ^^^ s.params.seedWhiten) len s

/-- `HASHS len, seed, msg -> digest`: default table, the caller's seed whitened (R171). -/
def execHashs (len seed : Word) (s : State) : Host.Outcome State Fault Refusal :=
  runHash 0x11 s.params.secretDefault (seed ^^^ s.params.seedWhiten) len s

/-- `HASHK len, seed, k0, ..., k8, msg -> digest`: table and seed as given, unchecked (R172). -/
def execHashk (len seed : Word) (secret : SecretTable) (s : State) : Host.Outcome State Fault Refusal :=
  runHash 0x12 secret seed len s

end Sys2Proof.Machine
end

