-- ==== Sys2Proof/Machine/Montgomery.lean ====
section
/-! DEFINITION. The Montgomery arithmetic engine MA (43_montgomery.md) and its commands. Each command checks its domain before
any arithmetic and takes `DomainFault` outside it (R208, R266, U2); `ISPRIME` is total. -/

namespace Sys2Proof.Machine

/-- One refinement step of the inverse: `x * (2 - n * x)` (R191). -/
def refineInv (n x : Word) : Word := x * (2 - n * x)

/-- `mont_inv(n)` for odd `n` (R190), by the datapath of R191: five correct bits, then four doublings. -/
def montInv (n : Word) : Word := refineInv n (refineInv n (refineInv n (refineInv n ((3 * n) ^^^ 2))))

/-- `to_mont(x, n) = (x · 2^64) mod n` (R193). -/
def toMont (x n : Word) : Word := BitVec.ofNat 64 (x.toNat * 2 ^ 64 % n.toNat)

/-- `mont_one(n) = 2^64 mod n` (R194). -/
def montOne (n : Word) : Word := BitVec.ofNat 64 (2 ^ 64 % n.toNat)

/-- `mont_mul(a, b, n, n_inv)` by the datapath of R196. -/
def montMul (a b n nInv : Word) : Word :=
  let (lo, hi) := mul128 a b
  let m := lo * nInv
  let (_, mh) := mul128 m n
  if hi < mh then hi - mh + n else hi - mh

/-- The loop of `mont_pow` (R198); `fuel` bounds the bits of `e`. -/
def montPowLoop (n nInv : Word) : Nat → Word → Word → Word → Word
  | 0, r, _, _ => r
  | fuel + 1, r, base, e =>
    if e = 0 then r
    else
      montPowLoop n nInv fuel (if e.getLsbD 0 then montMul r base n nInv else r) (montMul base base n nInv) (e >>> 1)

/-- `mont_pow(base, exp, n, n_inv, one)` (R198): at most 64 iterations, one per bit of `exp`. -/
def montPow (base exp n nInv one : Word) : Word := montPowLoop n nInv 64 one base exp

/-- The factoring loop of R200: `d · 2^sh` with `d` made odd; `fuel` bounds the halvings. -/
def oddPart : Nat → Word → Nat → Word × Nat
  | 0, d, sh => (d, sh)
  | fuel + 1, d, sh => if d.getLsbD 0 then (d, sh) else oddPart fuel (d >>> 1) (sh + 1)

/-- "repeat sh - 1 times" of R200: square, true at `minus1`, false at `one`. -/
def sprpSquarings (n nInv one minus1 : Word) : Nat → Word → Bool
  | 0, _ => false
  | k + 1, x =>
    let x' := montMul x x n nInv
    if x' = minus1 then true
    else if x' = one then false
    else sprpSquarings n nInv one minus1 k x'

/-- `mont_sprp(n, a, n_inv, one)` (R200). -/
def montSprp (n a nInv one : Word) : Bool :=
  let (d, sh) := oddPart 64 (n - 1) 0
  let minus1 := n - one
  let x := montPow (toMont a n) d n nInv one
  if x = one ∨ x = minus1 then true
  else sprpSquarings n nInv one minus1 (sh - 1) x

/-- `SMALL_PRIMES` (R33). -/
def smallPrimes : List Word := [2, 3, 5, 7]

/-- `PSEUDOPRIME` (R33). -/
def pseudoprime : Word := 3215031751

/-- `BASE2_BOUND` (R33). -/
def base2Bound : Word := 2047

/-- `WITNESS` (R33). -/
def witnesses : List Word := [3, 5, 7, 11, 13, 17, 19, 23, 29, 31, 37]

/-- `is_prime(n)` (R203), total over all words. -/
def isPrime (n : Word) : Bool :=
  if n < 2 then false
  else match smallPrimes.find? (fun q => n % q == 0) with
    | some q => n == q
    | none =>
      if n = pseudoprime then false
      else
        let nInv := montInv n
        let one := montOne n
        if !montSprp n 2 nInv one then false
        else if n < base2Bound then true
        else witnesses.all (fun a => montSprp n a nInv one)

/-- A Montgomery command: `DomainFault` if its domain check fails, else its one result word (R266). -/
def runMont (opc : BitVec 8) (domain : Bool) (result : Word) (s : State) : Host.Outcome State Fault Refusal :=
  if domain then .next (s.deliver opc [result]) else .next (s.raiseFault opc .domainFault)

/-- `MINV n -> n_inv` (R192). -/
def execMinv (n : Word) (s : State) : Host.Outcome State Fault Refusal :=
  runMont 0x20 (oddMod n) (montInv n) s

/-- `TOMONT x, n -> xm` (R195). -/
def execTomont (x n : Word) (s : State) : Host.Outcome State Fault Refusal :=
  runMont 0x21 (oddMod n) (toMont x n) s

/-- `MONE n -> one` (R205). -/
def execMone (n : Word) (s : State) : Host.Outcome State Fault Refusal :=
  runMont 0x22 (oddMod n) (montOne n) s

/-- `MMUL a, b, n, n_inv -> r` (R197). -/
def execMmul (a b n nInv : Word) (s : State) : Host.Outcome State Fault Refusal :=
  runMont 0x23 (oddMod n && invOk n nInv && isResidue a n && isResidue b n) (montMul a b n nInv) s

/-- `MPOW base, exp, n, n_inv, one -> r` (R199). -/
def execMpow (base exp n nInv one : Word) (s : State) : Host.Outcome State Fault Refusal :=
  runMont 0x24 (oddMod n && invOk n nInv && oneOk n one && isResidue base n) (montPow base exp n nInv one) s

/-- `SPRP n, a, n_inv, one -> t` (R201). -/
def execSprp (n a nInv one : Word) (s : State) : Host.Outcome State Fault Refusal :=
  runMont 0x25 (oddMod n && decide (3 ≤ n) && invOk n nInv && oneOk n one) (boolWord (montSprp n a nInv one)) s

/-- `ISPRIME n -> t` (R204): it has no fault of its own. -/
def execIsprime (n : Word) (s : State) : Host.Outcome State Fault Refusal :=
  .next (s.deliver 0x26 [boolWord (isPrime n)])

end Sys2Proof.Machine
end

