-- ==== Sys2Proof/Machine/Prng.lean ====
section
/-! DEFINITION. The pseudo-random generator PR (41_prng.md) and its command `RAND`. -/

namespace Sys2Proof.Machine

/-- `rand(s) -> (r, s')`: the state advances first, the output comes from the new state (R131). -/
def rand (p : Params) (s : Word) : Word × Word :=
  let s' := s + p.prngK0
  (mix s' (s' ^^^ p.prngK1), s')

/-- `RAND s -> r, s'` (R132): the new state is a result; the unit keeps none (R298). -/
def execRand (x : Word) (s : State) : Host.Outcome State Fault Refusal :=
  .next (s.deliver 0x08 [(rand s.params x).1, (rand s.params x).2])

end Sys2Proof.Machine
end

