-- ==== Sys2Proof/Machine/SecretGen.lean ====
section
/-! DEFINITION. The secret generator SG (44_secretgen.md) and its command `MKSEC`. The search need not end (R249), so it is not
one step: `execMksec` starts it and every later step examines one candidate, with `BUSY = 1` and no response until it ends
(R280, R297). -/

namespace Sys2Proof.Machine

/-- The table byte a draw selects: `CAND[r mod CAND_LEN]` (R243, C5). -/
def candByte (p : Params) (r : Word) : Byte := p.cand.getD (r.toNat % p.cand.length) 0

/-- The draws of R243 that remain from byte position `8 - k` on: each puts its byte at bits `8j+7:8j`. -/
def drawBytes (p : Params) : Nat → Word → Word → Word × Word
  | 0, w, s => (w, s)
  | k + 1, w, s =>
    let (r, s') := rand p s
    drawBytes p k (w ||| ((candByte p r).setWidth 64 <<< (8 * (7 - k)))) s'

/-- Candidate assembly: eight draws, the first at bits 7:0; the word and the new PRNG state (R243). -/
def candidate (p : Params) (s : Word) : Word × Word := drawBytes p 8 0 s

/-- The three tests on a candidate: odd, at distance exactly 32 from every accepted word, prime (R244, R245, R246). -/
def acceptable (out : List Word) (w : Word) : Bool :=
  w.getLsbD 0 && out.all (fun x => hamming w x == 32) && isPrime w

/-- How one candidate leaves the search. -/
inductive SearchOutcome where
  /-- The search goes on with these registers. -/
  | running (g : Generator)
  /-- Nine words are accepted: the table. -/
  | table (out : List Word)
  /-- More than `RETRY_LIMIT` candidates rejected for one word (R247). -/
  | failed
deriving DecidableEq, Repr

/-- One pass of the inner loop of R241: a candidate is drawn, tested, and accepted or rejected; `tries` counts rejections for
the current word while a retry ceiling is present (R247). -/
def searchStep (p : Params) (g : Generator) : SearchOutcome :=
  let (w, s') := candidate p g.s
  if acceptable g.out w then
    let out := g.out ++ [w]
    if out.length < 9 then .running ⟨s', out, 0⟩ else .table out
  else match p.retryLimit with
    | none => .running ⟨s', g.out, g.tries⟩
    | some limit => if limit < g.tries + 1 then .failed else .running ⟨s', g.out, g.tries + 1⟩

/-- One step of a `MKSEC` in progress: it goes on, delivers its nine words, or takes `GenFail` and delivers none (R241, R267,
R270). -/
def State.searchOn (s : State) (g : Generator) : State :=
  match searchStep s.params g with
  | .running g' => s.generate g'
  | .table out => s.deliver 0x30 out
  | .failed => s.raiseFault 0x30 .genFail

/-- `MKSEC seed -> k0, ..., k8` (R241): the PRNG state is loaded once, from the operand (R242), and the search begins. -/
def execMksec (seed : Word) (s : State) : Host.Outcome State Fault Refusal :=
  .next (s.generate ⟨seed, [], 0⟩)

end Sys2Proof.Machine
end

