-- ==== Sys2Proof/Machine/Dispatch.lean ====
section
/-! DEFINITION. One arm per command, each one direct call of its meaning. -/

namespace Sys2Proof.Machine

def exec (i : Instr) (s : State) : Host.Outcome State Fault Refusal :=
  match i with
  | .mul128 a b => Sys2Proof.Machine.execMul128 a b s
  | .mix a b => Sys2Proof.Machine.execMix a b s
  | .mum a b => Sys2Proof.Machine.execMum a b s
  | .rand x => Sys2Proof.Machine.execRand x s
  | .hash len => Sys2Proof.Machine.execHash len s
  | .hashs len seed => Sys2Proof.Machine.execHashs len seed s
  | .hashk len seed secret => Sys2Proof.Machine.execHashk len seed secret s
  | .minv n => Sys2Proof.Machine.execMinv n s
  | .tomont x n => Sys2Proof.Machine.execTomont x n s
  | .mone n => Sys2Proof.Machine.execMone n s
  | .mmul a b n nInv => Sys2Proof.Machine.execMmul a b n nInv s
  | .mpow base exp n nInv one => Sys2Proof.Machine.execMpow base exp n nInv one s
  | .sprp n a nInv one => Sys2Proof.Machine.execSprp n a nInv one s
  | .isprime n => Sys2Proof.Machine.execIsprime n s
  | .mksec seed => Sys2Proof.Machine.execMksec seed s

end Sys2Proof.Machine
end

