-- ==== Sys2Proof/Machine/Unit.lean ====
section
/-! DEFINITION. What the unit does in one step, and what the host's next act does to it. -/

namespace Sys2Proof.Machine

/-- The accepted descriptor is examined in the order of R269: refused if a fault is latched (R262), rejected by the decoder's
fault (R92), or run. -/
def runFrame (frame : List Word) (s : State) : Host.Outcome State Fault Refusal :=
  if s.status.fault then .next (s.refuse (frameOpc frame))
  else match decodeFrame frame with
    | .error f => .next (s.raiseFault (frameOpc frame) f)
    | .ok i => exec i s

/-- The unit's own step: an idle unit waits (R279, R291), an accepted descriptor is run, a search examines one candidate. -/
def advance (s : State) : Host.Outcome State Fault Refusal :=
  match s.activity with
  | .idle => .next s
  | .accepted frame => runFrame frame s
  | .generating g => .next (s.searchOn g)

/-- One step, by the host's next act. A descriptor offered while `BUSY = 1` is held off and stays the host's next act while the
unit goes on (R295); `RESET` is heeded at any time (R290); the host may write the message at any time (R62). -/
def turn (s : State) : Host.Outcome State Fault Refusal :=
  match s.host with
  | [] => advance s
  | .wait :: rest => advance (s.withHost rest)
  | .write off b :: rest => .next ((s.hostWrite off b).withHost rest)
  | .reset :: rest => .next (s.afterReset.withHost rest)
  | .offer frame ext :: rest =>
    if s.status.busy then advance s else .next ((s.accept frame ext).withHost rest)

/-- The unit with this descriptor accepted and not yet run, and no other act of the host to come. -/
def State.withAccepted (s : State) (frame : List Word) : State := (s.accept frame s.ext).withHost []

end Sys2Proof.Machine
end

