-- ==== Sys2Proof/Machine/Step.lean ====
section
/-! DEFINITION. The step function, and the state whose next step runs a given descriptor. -/

namespace Sys2Proof.Machine

/-- One step of the machine. -/
def step (s : State) : Host.Outcome State Fault Refusal := turn s

/-- `s` with the descriptor that the opcode table's number `w` stands for accepted, so that the next step runs it. The unit
fetches nothing (R24): this stands for the host's offer and its acceptance. See log entry 9. -/
def State.withFetchWord (s : State) (nbits w : Nat) : State := s.withAccepted (frameOfTableWord nbits w)

end Sys2Proof.Machine
end

