-- ==== Sys2Proof/Safety.lean ====
section
/-! DEFINITION. What claims mean by a good state, a good response and a safe step. -/

namespace Sys2Proof.Machine

/-- A step that answers a next state: the machine neither stops nor refuses. -/
def Completes (o : Host.Outcome State Fault Refusal) : Prop := ∃ t, o = .next t

/-- The words a search may have accepted (R244 to R246, with R243's population count): each odd, of population count 32 and
passing R203, each pair at distance exactly 32. -/
structure WordsOk (out : List Word) : Prop where
  odd : ∀ w ∈ out, w.getLsbD 0 = true
  popcount : ∀ w ∈ out, popcount w = 32
  prime : ∀ w ∈ out, isPrime w = true
  distance : out.Pairwise (fun x y => hamming x y = 32)

/-- `STATUS` as R21 and R261 allow it: no code without a fault, and with one the code of a fault that latches. -/
def Status.legal (st : Status) : Prop :=
  (st.fault = false → st.ecode = 0) ∧ (st.fault = true → ∃ f, st.ecode = faultCode f)

/-- A response as R86, R87 and R261 allow it: a header with `RSV = 0`; with `ECODE = 0` the results of a legal command, as many
as its row says, a boolean 0 or 1, a delivered table acceptable; otherwise the header alone with a code of R261. -/
structure ResponseOk (header : Word) (results : List Word) : Prop where
  reserved : header.toNat < 2 ^ 16
  completed : responseEcode header = 0 →
    ∃ row, opcodeRow (headerOpc header) = some row ∧ results.length = row.nres
  boolean : responseEcode header = 0 → headerOpc header = 0x25 ∨ headerOpc header = 0x26 → results = [0] ∨ results = [1]
  table : responseEcode header = 0 → headerOpc header = 0x30 → WordsOk results
  ended : responseEcode header ≠ 0 → results = [] ∧
    (responseEcode header = refusedCode ∨ ∃ f, responseEcode header = faultCode f)

/-- The search registers between two candidates: `idx ≤ 8`, the accepted words acceptable, `tries` 0 without a retry ceiling
and at most the ceiling with one (R32, R247). -/
structure GeneratorOk (p : Params) (g : Generator) : Prop where
  idx : g.out.length < 9
  words : WordsOk g.out
  unlimited : p.retryLimit = none → g.tries = 0
  limited : ∀ limit, p.retryLimit = some limit → g.tries ≤ limit

/-- The invariant of the machine. -/
structure State.Inv (s : State) : Prop where
  /-- R10, R20(a). -/
  params : s.params.Valid
  /-- The message space keeps its canonical form. -/
  memory : s.msg.wf = true
  /-- R21, R22: `BUSY` is 1 exactly while a command is in progress. -/
  busy : s.status.busy = true ↔ s.activity ≠ .idle
  /-- R21, R261. -/
  status : s.status.legal
  /-- No changed byte is remembered past the command (U4). -/
  stale : s.status.busy = false → s.stale = []
  /-- R262: a faulted unit runs nothing; R32. -/
  generating : ∀ g, s.activity = .generating g → s.status.fault = false ∧ GeneratorOk s.params g
  /-- R86. -/
  responses : ∀ r ∈ s.rspq, ∃ header results, r = header :: results ∧ ResponseOk header results

end Sys2Proof.Machine
end

