-- ==== Sys2Proof/Certificates/Slice0/Obligations.lean ====
section
/-! DEFINITION. The statements for the provers. `Sys2Proof.Spec` holds what they compare the machine with, written from the rules
a second time: closed forms where the machine runs a loop, numbers where it runs a datapath. -/

namespace Sys2Proof.Spec

open Sys2Proof.Machine

/-- `s` after a command has answered with this frame: the response is the last one delivered, `BUSY` is 0, no command is in
progress; every other field of `s` is as it was (R86, R21, R37). The record of responses is the model's own (log entry 7). -/
def answered (s : State) (header : Word) (results : List Word) : State :=
  { s with rspq := s.rspq ++ [header :: results], status := { s.status with busy := false }, activity := .idle, stale := [] }

/-- `s` after a command has ended with a fault: the header alone is delivered and `STATUS` latches the first code (R262, R270);
every other field of `s` is as it was. -/
def trapped (s : State) (header : Word) (code : BitVec 8) : State :=
  { s with
    rspq := s.rspq ++ [[header]]
    status := if s.status.fault then { s.status with busy := false } else { busy := false, fault := true, ecode := code }
    activity := .idle
    stale := [] }

/-- The opcode map of R83: each legal header and its `NOPS`. -/
def opcodeMap : List (Word × Nat) :=
  [(0x01, 2), (0x02, 2), (0x03, 2), (0x08, 1), (0x10, 1), (0x11, 2), (0x12, 11), (0x20, 1), (0x21, 2), (0x22, 1), (0x23, 4),
   (0x24, 5), (0x25, 4), (0x26, 1), (0x30, 1)]

/-- The little-endian number of `n` message bytes from `off` (R52 to R54), as one pass of a hash command sees them. -/
def le (s : State) (pass : ReadPass) (off n : Nat) : Word :=
  BitVec.ofNat 64 (∑ k ∈ Finset.range n, 2 ^ (8 * k) * (s.fetchByte pass (off + k)).toNat)

/-- `seed XOR mix(seed XOR x, y)` (R142). -/
def fold (seed x y : Word) : Word := seed ^^^ mix (seed ^^^ x) y

/-- R160: `mum(a XOR S[1], b XOR seed)`, then the last `mix`. -/
def finish (S : SecretTable) (len seed a b : Word) : Word :=
  mix (mix (a ^^^ S[1]) (b ^^^ seed) ^^^ S[8]) ((mul128 (a ^^^ S[1]) (b ^^^ seed)).2 ^^^ S[1] ^^^ len)

/-- The digest of a message of at most 16 bytes (R143 to R148, R160). -/
def shortDigest (s : State) (S : SecretTable) (seed len : Word) : Word :=
  let L := len.toNat
  let seed' := fold seed S[0] (S[1] ^^^ len)
  if L = 0 then finish S len seed' 0 0
  else if L ≤ 3 then
    finish S len seed'
      (BitVec.ofNat 64 (2 ^ 16 * (s.fetchByte .first 0).toNat + 2 ^ 8 * (s.fetchByte .middle (L / 2)).toNat
        + (s.fetchByte .last (L - 1)).toNat)) 0
  else if L ≤ 7 then finish S len seed' (le s .first 0 4) (le s .last (L - 4) 4)
  else finish S len seed' (le s .first 0 8) (le s .last (L - 8) 8)

/-- One 16-byte mix step at offset `q` (R152). -/
def step16 (s : State) (q : Nat) (k z : Word) : Word := mix (le s .first q 8 ^^^ k) (le s .first (q + 8) 8 ^^^ z)

/-- Lane `k`'s seed after `t` blocks: block `t` gives it the 16 bytes at `128t + 16k` and `S[k]` (R157, R163). -/
def lane (s : State) (S : SecretTable) (seed : Word) (k : Fin 9) : Nat → Word
  | 0 => seed
  | t + 1 => step16 s (128 * t + 16 * k.val) S[k] (lane s S seed k t)

/-- The mix steps of one stride from offset `q` on (R153 to R155). -/
def strideFrom (s : State) (S : SecretTable) : List (Fin 9) → Nat → Word → Word
  | [], _, z => z
  | k :: ks, q, z => strideFrom s S ks (q + 16) (step16 s q S[k] z)

/-- The strides on the `i` bytes from `p`, `1 ≤ i ≤ 128`, chosen by R165's table: the 64-stride for `i > 64`, the 32-stride for
`i` in 33..64 and 97..128, the 16-stride for the upper half of each 32. -/
def strideSeed (s : State) (S : SecretTable) (p i : Nat) (z : Word) : Word :=
  let idx := s.params.strideIdx
  let z64 := if 64 < i then strideFrom s S [idx[0], idx[1], idx[2], idx[3]] p z else z
  let z32 := if 32 ≤ (i - 1) % 64 then strideFrom s S [idx[4], idx[5]] (p + 64 * ((i - 1) / 64)) z64 else z64
  if 16 ≤ (i - 1) % 32 then strideFrom s S [idx[6]] (p + 32 * ((i - 1) / 32)) z32 else z32

/-- The digest of a message of more than 16 bytes (R150 to R161, R165): `N = floor((len - 1) / 128)` blocks, the eight lanes
XORed together, the strides, the last 16 bytes of the whole input. -/
def longDigest (s : State) (S : SecretTable) (seed len : Word) : Word :=
  let L := len.toNat
  let N := (L - 1) / 128
  let seed0 := fold seed S[2] S[1]
  let combined := if L ≤ 128 then seed0 else
    lane s S seed0 0 N ^^^ lane s S seed0 1 N ^^^ lane s S seed0 2 N ^^^ lane s S seed0 3 N ^^^
    lane s S seed0 4 N ^^^ lane s S seed0 5 N ^^^ lane s S seed0 6 N ^^^ lane s S seed0 7 N
  let seed' := strideSeed s S (128 * N) (L - 128 * N) combined
  finish S len seed' (le s .last (L - 16) 8 ^^^ len) (le s .last (L - 8) 8)

/-- The digest of the message `s` presents (R141). -/
def digest (s : State) (S : SecretTable) (seed len : Word) : Word :=
  if len.toNat ≤ 16 then shortDigest s S seed len else longDigest s S seed len

/-- R202: with `n - 1 = d · 2^sh` and `d` odd, `a^d ≡ 1` or `a^(d·2^j) ≡ -1` modulo `n` for some `j < sh`. -/
def PassesRound (n a : Nat) : Prop :=
  ∃ d sh : Nat, n - 1 = d * 2 ^ sh ∧ d % 2 = 1 ∧ (a ^ d % n = 1 ∨ ∃ j < sh, a ^ (d * 2 ^ j) % n = n - 1)

/-- The tests of R244 to R246 on a candidate `w`: odd, at distance exactly 32 from every word of `out`, passing R203. -/
abbrev Good (out : List Word) (w : Word) : Prop :=
  w.toNat % 2 = 1 ∧ out.all (fun x => popcount (w ^^^ x) = 32) ∧ isPrime w = true

/-- The `j`-th candidate of the sequence that `seed` alone determines (R242), `j` from 0. -/
def nthCandidate (p : Params) (seed : Word) (j : Nat) : Word :=
  (candidate p (seed + BitVec.ofNat 64 (8 * j) * p.prngK0)).1

/-- The words accepted among the first `j` candidates: each is taken if it passes the tests against those before it. -/
def acceptedAmong (p : Params) (seed : Word) : Nat → List Word
  | 0 => []
  | j + 1 =>
    let out := acceptedAmong p seed j
    if Good out (nthCandidate p seed j) then out ++ [nthCandidate p seed j] else out

end Sys2Proof.Spec

open Sys2Proof Sys2Proof.Machine Sys2Proof.Spec

/-! Encoding. -/

/-- Decoding an encoded command gives it back, every operand at every value (R81, R83, R84, R92). -/
def Obligations.DecodeOfEncode : Prop := ∀ i : Instr, decodeFrame (encode i) = .ok i

/-- A frame that decodes is the encoding of what it decodes to: no other frame means that command (R81, R82, R89, R90). -/
def Obligations.EncodeOfDecode : Prop := ∀ (frame : List Word) (i : Instr), decodeFrame frame = .ok i → encode i = frame

/-- Descriptors written out from R82 to R84, one or more of each family, decode to the commands they stand for. -/
def Obligations.SampleDescriptorsDecode : Prop :=
  decodeFrame [0x01, 0x3, 0x5] = .ok (.mul128 3 5) ∧ decodeFrame [0x03, 0x3, 0x5] = .ok (.mum 3 5) ∧
  decodeFrame [0x08, 0x7] = .ok (.rand 7) ∧ decodeFrame [0x11, 0x3, 0x1234] = .ok (.hashs 3 0x1234) ∧
  decodeFrame [0x21, 0x2, 0x65] = .ok (.tomont 2 101) ∧ decodeFrame [0x25, 1, 2, 3, 4] = .ok (.sprp 1 2 3 4) ∧
  decodeFrame [0x30, 0x9] = .ok (.mksec 9)

/-- R92 with R262's refusal: an accepted descriptor is refused, faulted or run, by the tests of R92 in their order. That
acceptance and running are two steps, and the host's list, are the model's choice (log entry 8). -/
def Obligations.DescriptorExaminedInOrder : Prop :=
  ∀ (s : State) (frame : List Word), s.activity = .accepted frame → s.host = [] →
    (s.status.fault = true →
      (frame = [] → step s = .next (answered s 0x0F00 [])) ∧
      (∀ h ops, frame = h :: ops → step s = .next (answered s (0x0F00 ||| (h &&& 0xFF)) []))) ∧
    (s.status.fault = false →
      (frame = [] → step s = .next (trapped s 0x0200 0x02)) ∧
      (∀ h ops, frame = h :: ops →
        ((∀ row ∈ opcodeMap, h ≠ row.1) → step s = .next (trapped s (0x0100 ||| (h &&& 0xFF)) 0x01)) ∧
        (∀ row ∈ opcodeMap, h = row.1 → ops.length ≠ row.2 → step s = .next (trapped s (0x0200 ||| h) 0x02)) ∧
        (∀ row ∈ opcodeMap, h = row.1 → ops.length = row.2 → ∃ i, encode i = frame ∧ step s = exec i s)))

/-- The response header's fields: `OPC` in bits 7:0, `ECODE` in bits 15:8, the rest 0 (R86). -/
def Obligations.ResponseHeaderLayout : Prop :=
  ∀ opc ecode : BitVec 8, headerOpc (responseHeader opc ecode) = opc ∧ responseEcode (responseHeader opc ecode) = ecode ∧
    (responseHeader opc ecode).toNat < 2 ^ 16

/-- The word the host reads from `STATUS` (R21): three fields, every reserved bit 0. -/
def Obligations.StatusWordLayout : Prop :=
  ∀ st : Status, st.word.getLsbD 0 = st.busy ∧ st.word.getLsbD 1 = st.fault ∧ st.word.extractLsb' 8 8 = st.ecode ∧
    st.word.extractLsb' 2 6 = 0 ∧ st.word.extractLsb' 16 48 = 0

/-! The step. -/

/-- A step of a unit that has accepted a descriptor which decodes, with no fault latched, is `exec` of the command: when the
host does nothing, waits (its act is taken first), or offers another descriptor (held off). The host's list of acts is the
model's choice (log entry 8). -/
def Obligations.StepRunsDecodedCommand : Prop :=
  ∀ (s : State) (frame : List Word) (i : Instr), s.activity = .accepted frame → s.status.fault = false →
    decodeFrame frame = .ok i →
    (s.host = [] → step s = exec i s) ∧
    (∀ rest, s.host = .wait :: rest → step s = exec i { s with host := rest }) ∧
    (∀ f e rest, s.host = .offer f e :: rest → s.status.busy = true → step s = exec i s)

/-- An idle unit with no host act waits (R279, R291). The host's list is the model's choice (log entry 8). -/
def Obligations.IdleUnitWaits : Prop :=
  ∀ s : State, s.activity = .idle → s.host = [] → step s = .next s

/-- A descriptor offered while `BUSY = 0` is accepted whole: `BUSY` becomes 1 and the frame and extent are latched (R21, R22,
R51). Acceptance as a step of its own is the model's choice (log entry 8). -/
def Obligations.OfferAcceptedWhenIdle : Prop :=
  ∀ (s : State) (frame : List Word) (ext : Nat) (rest : List HostInput), s.status.busy = false →
    s.host = .offer frame ext :: rest →
    step s = .next { s with status := { s.status with busy := true }, activity := .accepted frame, ext := ext, stale := [],
                            host := rest }

/-- A descriptor offered while `BUSY = 1` is held off: the unit does what it would do with no offer, and the offer stays the
host's next act (R295). The host's list is the model's choice (log entry 8). -/
def Obligations.OfferHeldOffWhileBusy : Prop :=
  ∀ (s t : State) (frame : List Word) (ext : Nat) (rest : List HostInput), s.status.busy = true →
    s.host = .offer frame ext :: rest → step { s with host := [] } = .next t → step s = .next { t with host := s.host }

/-- R290: `RESET` at any time, a command in progress or not. The host's list and the record of responses are the model's choice
(log entries 7 and 8). -/
def Obligations.ResetAtAnyTime : Prop :=
  ∀ (s : State) (rest : List HostInput), s.host = .reset :: rest →
    ∃ t, step s = .next t ∧ t.status.word = 0 ∧ t.rspq = [] ∧ t.activity = .idle ∧ t.params = s.params ∧ t.msg = s.msg ∧
      t.host = rest

/-- The values the spec gives for reset (R36), and R10's constraints on the parameters. -/
def Obligations.ResetStateValues : Prop :=
  State.reset.status.word = 0 ∧ State.reset.status.busy = false ∧ State.reset.status.fault = false ∧
  State.reset.status.ecode = 0 ∧ State.reset.rspq = [] ∧ State.reset.activity = .idle ∧ State.reset.params.Valid

/-- Only `RESET` clears a latched fault, and its code stays the first fault's (R262, R271, R292). -/
def Obligations.FaultLatchedUntilReset : Prop :=
  ∀ s t : State, step s = .next t → s.status.fault = true → (∀ rest, s.host ≠ .reset :: rest) →
    t.status.fault = true ∧ t.status.ecode = s.status.ecode

/-- The first fault is reported in two places: the response and `STATUS` carry one code of R261 (R260, R262). The record of
responses is the model's choice (log entry 7). -/
def Obligations.FirstFaultReportedTwice : Prop :=
  ∀ s t : State, step s = .next t → s.status.fault = false → t.status.fault = true →
    ∃ (f : CommandFault) (h : Word), t.rspq = s.rspq ++ [[h]] ∧ responseEcode h = faultCode f ∧ t.status.ecode = faultCode f ∧
      t.status.busy = false ∧ t.activity = .idle

/-- Exactly one response per command: one is delivered exactly when `BUSY` falls, and none while it stays 1 (R21, R22, R280).
The record of responses is the model's choice (log entry 7). -/
def Obligations.ResponseExactlyWhenBusyFalls : Prop :=
  ∀ s t : State, s.Inv → step s = .next t → (∀ rest, s.host ≠ .reset :: rest) →
    (t.rspq = s.rspq ∧ (s.status.busy = true → t.status.busy = true)) ∨
    (s.status.busy = true ∧ t.status.busy = false ∧ ∃ r, t.rspq = s.rspq ++ [r])

/-- The invariant holds at reset. -/
def Obligations.ResetMeetsInvariant : Prop := State.reset.Inv

/-- Every step keeps the invariant, from every state that has it. -/
def Obligations.StepKeepsInvariant : Prop := ∀ s t : State, s.Inv → step s = .next t → t.Inv

/-- The machine never stops: every step of every state answers a next state. No read leaves the message (R162), no command is
without a meaning, a fault of the spec is a next state. -/
def Obligations.EveryStepAnswers : Prop := ∀ s : State, Completes (step s)

/-- The unit writes no memory and no parameter: a step changes the parameters never, and the message only when the host's act
is a write (R20, R59). The host's list is the model's choice (log entry 8). -/
def Obligations.UnitWritesNoMemory : Prop :=
  ∀ s t : State, step s = .next t → t.params = s.params ∧
    ((∀ off b rest, s.host ≠ .write off b :: rest) → t.msg = s.msg)

/-- A host's write changes one message byte and keeps the canonical form (R50, R62); while `BUSY = 1` the value the byte held,
with its offset, joins the ones a read may still return. Nothing else changes. A write as a step, the canonical form and the
record of replaced values are the model's choice (log entries 8, 4 and 6). -/
def Obligations.HostWriteChangesOneByte : Prop :=
  ∀ (s : State) (off : Word) (b : Byte) (rest : List HostInput), s.msg.wf = true → s.host = .write off b :: rest →
    ∃ t, step s = .next t ∧ (∀ a, t.msg.read a = if a = off.toNat then b else s.msg.read a) ∧ t.msg.wf = true ∧
      t.stale = (if s.status.busy then (off.toNat, s.msg.read off.toNat) :: s.stale else s.stale) ∧ t.draws = s.draws ∧
      t.status = s.status ∧ t.activity = s.activity ∧ t.rspq = s.rspq ∧ t.params = s.params ∧ t.ext = s.ext ∧ t.host = rest

/-- What a command leaves unchanged, for every command: the parameters, every message byte, the extent, the host's acts; the
count of free values but for a hash command; and `STATUS.FAULT` and `ECODE` but for a fault of the command's own, reported in
its response. The count of free values is the model's own (log entry 6). -/
def Obligations.CommandFrame : Prop :=
  ∀ (i : Instr) (s t : State), exec i s = .next t →
    t.params = s.params ∧ t.ext = s.ext ∧ t.host = s.host ∧ t.msg = s.msg ∧ (∀ a, t.msg.read a = s.msg.read a) ∧
    (t.draws = s.draws ∨
      (((∃ len, i = .hash len) ∨ (∃ len seed, i = .hashs len seed) ∨ (∃ len seed S, i = .hashk len seed S)) ∧
        t.draws = s.draws + 1)) ∧
    ((t.status.fault = s.status.fault ∧ t.status.ecode = s.status.ecode) ∨
      (s.status.fault = false ∧ t.status.fault = true ∧ (t.status.ecode = 0x03 ∨ t.status.ecode = 0x04) ∧
        ∃ h, t.rspq = s.rspq ++ [[h]] ∧ responseEcode h = t.status.ecode))

/-- No hidden state (R35, R298): a command's response is a function of the command, the parameters, the message and the extent,
whatever ran before; and `MKSEC` starts the same search. -/
def Obligations.NoHiddenState : Prop :=
  ∀ (i : Instr) (s t : State), s.params = t.params → s.msg = t.msg → s.ext = t.ext → s.stale = [] → t.stale = [] →
    ∃ s' t', exec i s = .next s' ∧ exec i t = .next t' ∧
      ((∃ r, s'.rspq = s.rspq ++ [r] ∧ t'.rspq = t.rspq ++ [r] ∧ s'.activity = .idle ∧ t'.activity = .idle) ∨
       (∃ g, s'.activity = .generating g ∧ t'.activity = .generating g ∧ s'.rspq = s.rspq ∧ t'.rspq = t.rspq))

/-! The mixer and the PRNG. -/

/-- R110. -/
def Obligations.Mul128ExactProduct : Prop :=
  ∀ a b : Word,
    (mul128 a b).1.toNat = a.toNat * b.toNat % 2 ^ 64 ∧ (mul128 a b).2.toNat = a.toNat * b.toNat / 2 ^ 64 ∧
    (mul128 a b).2.toNat * 2 ^ 64 + (mul128 a b).1.toNat = a.toNat * b.toNat ∧ (mul128 a b).2.toNat ≤ 2 ^ 64 - 2

/-- R112 and R113: both outputs of `mum` come from the old operands, and its first is `mix`. -/
def Obligations.MixAndMumFoldTheProduct : Prop :=
  ∀ a b : Word, mix a b = (mul128 a b).1 ^^^ (mul128 a b).2 ∧
    mum a b = ((mul128 a b).1 ^^^ (mul128 a b).2, (mul128 a b).2) ∧ (mum a b).1 = mix a b

/-- The numeric laws (b) to (g) of R116. -/
def Obligations.MixerLaws : Prop :=
  (∀ a b : Word, mul128 a b = mul128 b a ∧ mix a b = mix b a ∧ mum a b = mum b a) ∧
  (∀ b : Word, mul128 0 b = (0, 0) ∧ mix 0 b = 0 ∧ mum 0 b = (0, 0)) ∧
  (∀ b : Word, mul128 1 b = (b, 0) ∧ mix 1 b = b ∧ mum 1 b = (b, 0)) ∧
  (∀ (j : Nat) (b : Word), 1 ≤ j → j ≤ 63 →
    mul128 ((1 : Word) <<< j) b = (b <<< j, b >>> (64 - j)) ∧ mix ((1 : Word) <<< j) b = b.rotateLeft j) ∧
  (∀ a b : Word, a.toNat * b.toNat < 2 ^ 64 → (mul128 a b).2 = 0 ∧ mix a b = a * b) ∧
  (∃ a b c : Word, b ≠ c ∧ mix a b = mix a c)

/-- `MUL128`, `MIX` and `MUM` complete with the halves of the exact product, folded as R111, R114 and R115 say; the descriptor
is the header and the two operands; nothing else changes. -/
def Obligations.MixerCommandsComplete : Prop :=
  ∀ (a b : Word) (s : State), ∃ lo hi : Word, hi.toNat * 2 ^ 64 + lo.toNat = a.toNat * b.toNat ∧
    encode (.mul128 a b) = [0x01, a, b] ∧ exec (.mul128 a b) s = .next (answered s 0x01 [lo, hi]) ∧
    encode (.mix a b) = [0x02, a, b] ∧ exec (.mix a b) s = .next (answered s 0x02 [lo ^^^ hi]) ∧
    encode (.mum a b) = [0x03, a, b] ∧ exec (.mum a b) s = .next (answered s 0x03 [lo ^^^ hi, hi])

/-- `RAND` completes with the output computed from the advanced state, and that state (R131, R132). -/
def Obligations.RandCommandCompletes : Prop :=
  ∀ (x : Word) (s : State), encode (.rand x) = [0x08, x] ∧
    exec (.rand x) s = .next (answered s 0x08
      [mix (x + s.params.prngK0) ((x + s.params.prngK0) ^^^ s.params.prngK1), x + s.params.prngK0]) ∧
    (x + s.params.prngK0 = 0 → exec (.rand x) s = .next (answered s 0x08 [0, 0])) ∧
    (x + s.params.prngK0 = s.params.prngK1 → exec (.rand x) s = .next (answered s 0x08 [0, s.params.prngK1]))

/-- R133: the `k`-th state is `s0 + k·K0`, the output after it is a fixed function of the next state, and the states repeat
with period `2^64 / gcd(K0, 2^64)`. -/
def Obligations.RandSequenceIsCounter : Prop :=
  ∀ (p : Params) (s0 : Word) (k : Nat),
    let at' := fun j : Nat => s0 + BitVec.ofNat 64 j * p.prngK0
    ((fun x => (rand p x).2)^[k]) s0 = at' k ∧
    (rand p (((fun x => (rand p x).2)^[k]) s0)).1 = mix (at' (k + 1)) (at' (k + 1) ^^^ p.prngK1) ∧
    (((fun x => (rand p x).2)^[k]) s0 = s0 ↔ 2 ^ 64 / Nat.gcd p.prngK0.toNat (2 ^ 64) ∣ k)

/-! The message and the hash engine. -/

/-- R53: with no byte changed under the command, an 8-byte read inside the message is the little-endian number of its bytes, at any
alignment; byte `k` of the word is `MSG[off + k]`. That a read which leaves the message, of which the rule says nothing, has no
value is the model's choice (log entry 16). -/
def Obligations.MemReadIsLittleEndian : Prop :=
  ∀ (s : State) (len off : Word) (pass : ReadPass), s.stale = [] →
    (off.toNat + 8 ≤ len.toNat →
      ∃ v : Word, s.memRead len pass off 8 = some v ∧
        v.toNat = ∑ k ∈ Finset.range 8, 2 ^ (8 * k) * (s.msg.read (off.toNat + k)).toNat ∧
        (∀ k, k < 8 → v.extractLsb' (8 * k) 8 = s.msg.read (off.toNat + k))) ∧
    (len.toNat < off.toNat + 8 → s.memRead len pass off 8 = none)

/-- Reads of different widths agree (R55), and the narrow ones are zero-extended (R52, R54). -/
def Obligations.MixedWidthReadsAgree : Prop :=
  ∀ (s : State) (len off : Word) (pass : ReadPass), off.toNat + 8 ≤ len.toNat →
    ∃ v8 v4 v1 : Word, s.memRead len pass off 8 = some v8 ∧ s.memRead len pass off 4 = some v4 ∧
      s.memRead len pass off 1 = some v1 ∧ v4 = v8 &&& 0xFFFFFFFF ∧ v1 = v4 &&& 0xFF

/-- A read of a byte the host has changed since acceptance returns a value the byte has held: the old or the new (R62, R294,
U4); of any other byte, its value. True for every value of the free choice. How the choice is made is the model's (log entry
6). -/
def Obligations.ChangedByteReadsOldOrNew : Prop :=
  ∀ (s : State) (pass : ReadPass) (off : Nat),
    (s.fetchByte pass off = s.msg.read off ∨ (off, s.fetchByte pass off) ∈ s.stale) ∧
    ((∀ b, (off, b) ∉ s.stale) → s.fetchByte pass off = s.msg.read off)

/-- The lane loop runs `floor((len - 1) / 128)` times and leaves 1 to 128 bytes (R161), with `p + i = len` (R25). -/
def Obligations.LaneLoopCount : Prop :=
  ∀ (s : State) (S : SecretTable) (len : Word) (z : Lanes), 128 < len.toNat →
    ∃ (p i : Word) (z' : Lanes), lanesLoop s S len (len.toNat / 128) 0 len z = some (p, i, z') ∧
      p.toNat = 128 * ((len.toNat - 1) / 128) ∧ p.toNat + i.toNat = len.toNat ∧ 1 ≤ i.toNat ∧ i.toNat ≤ 128

/-- The three hash commands complete whenever `len ≤ EXT`, with the digest of the message's bytes in closed form: length
dispatch, lanes block by block, the strides of R165's table, the last 16 bytes, finalization. They differ in table and seed
alone (R140, R170 to R172). Nothing else changes but the model's count of free values (log entry 6). -/
def Obligations.HashCommandsComputeDigest : Prop :=
  ∀ (s : State) (len seed : Word) (S : SecretTable), len.toNat ≤ s.ext →
    exec (.hash len) s = .next (answered { s with draws := s.draws + 1 } 0x10
      [digest s s.params.secretDefault (s.params.defaultSeed ^^^ s.params.seedWhiten) len]) ∧
    exec (.hashs len seed) s = .next (answered { s with draws := s.draws + 1 } 0x11
      [digest s s.params.secretDefault (seed ^^^ s.params.seedWhiten) len]) ∧
    exec (.hashk len seed S) s = .next (answered { s with draws := s.draws + 1 } 0x12 [digest s S seed len])

/-- R265: a hash command with `len > EXT` takes `SpanFault` and delivers no digest, whatever the message. -/
def Obligations.SpanFaultBeyondExtent : Prop :=
  ∀ (s : State) (len seed : Word) (S : SecretTable), s.ext < len.toNat →
    exec (.hash len) s = .next (trapped s 0x0310 0x03) ∧ exec (.hashs len seed) s = .next (trapped s 0x0311 0x03) ∧
    exec (.hashk len seed S) s = .next (trapped s 0x0312 0x03)

/-- The entry points agree (R94, R170 to R172): `HASH` with `HASHS` at the default seed, `HASHS` with `HASHK` at the default
table and the whitened seed. The count of free values is the model's own (log entry 6). -/
def Obligations.HashEntryPointsAgree : Prop :=
  ∀ (s : State) (len seed : Word), len.toNat ≤ s.ext →
    (∃ d, exec (.hash len) s = .next (answered { s with draws := s.draws + 1 } 0x10 [d]) ∧
      exec (.hashs len s.params.defaultSeed) s = .next (answered { s with draws := s.draws + 1 } 0x11 [d])) ∧
    (∃ d, exec (.hashs len seed) s = .next (answered { s with draws := s.draws + 1 } 0x11 [d]) ∧
      exec (.hashk len (seed ^^^ s.params.seedWhiten) s.params.secretDefault) s =
        .next (answered { s with draws := s.draws + 1 } 0x12 [d]))

/-- A digest depends on the message's first `len` bytes alone: two units that agree on them, with the same parameters, deliver the
same digest to each of the three hash commands, whatever lies beyond and whatever else they hold (R35, R173, R174(a)). The count
of free values is the model's own (log entry 6). -/
def Obligations.DigestDependsOnMessageAlone : Prop :=
  ∀ (s t : State) (len seed : Word) (S : SecretTable), s.params = t.params → s.stale = [] → t.stale = [] →
    len.toNat ≤ s.ext → len.toNat ≤ t.ext → (∀ off, off < len.toNat → s.msg.read off = t.msg.read off) →
    (∃ d, exec (.hash len) s = .next (answered { s with draws := s.draws + 1 } 0x10 [d]) ∧
      exec (.hash len) t = .next (answered { t with draws := t.draws + 1 } 0x10 [d])) ∧
    (∃ d, exec (.hashs len seed) s = .next (answered { s with draws := s.draws + 1 } 0x11 [d]) ∧
      exec (.hashs len seed) t = .next (answered { t with draws := t.draws + 1 } 0x11 [d])) ∧
    (∃ d, exec (.hashk len seed S) s = .next (answered { s with draws := s.draws + 1 } 0x12 [d]) ∧
      exec (.hashk len seed S) t = .next (answered { t with draws := t.draws + 1 } 0x12 [d]))

/-! The Montgomery engine. -/

/-- R190, R192: for odd `n`, `MINV` delivers the one word whose product with `n` is 1 modulo `2^64`; for even `n` it faults. -/
def Obligations.MinvDeliversTheInverse : Prop :=
  ∀ (n : Word) (s : State), encode (.minv n) = [0x20, n] ∧
    (n.toNat % 2 = 1 → ∃ x : Word, exec (.minv n) s = .next (answered s 0x20 [x]) ∧ n.toNat * x.toNat % 2 ^ 64 = 1 ∧
      (∀ y : Word, n.toNat * y.toNat % 2 ^ 64 = 1 → y = x) ∧ exec (.minv x) s = .next (answered s 0x20 [n])) ∧
    (n.toNat % 2 = 0 → exec (.minv n) s = .next (trapped s 0x0420 0x04))

/-- R193, R195: for odd `n`, `TOMONT` delivers `x · 2^64 mod n`, with `x` reduced; for even `n` it faults. -/
def Obligations.TomontDeliversMontgomeryForm : Prop :=
  ∀ (x n : Word) (s : State), encode (.tomont x n) = [0x21, x, n] ∧
    (n.toNat % 2 = 1 → ∃ xm : Word, exec (.tomont x n) s = .next (answered s 0x21 [xm]) ∧
      xm.toNat = x.toNat * 2 ^ 64 % n.toNat ∧ xm.toNat < n.toNat ∧
      exec (.tomont (x % n) n) s = .next (answered s 0x21 [xm])) ∧
    (n.toNat % 2 = 0 → exec (.tomont x n) s = .next (trapped s 0x0421 0x04))

/-- R194, R205: for odd `n`, `MONE` delivers `2^64 mod n`, the Montgomery form of 1; `n - one` is that of -1; for even `n` it
faults. -/
def Obligations.MoneDeliversOne : Prop :=
  ∀ (n : Word) (s : State), encode (.mone n) = [0x22, n] ∧
    (n.toNat % 2 = 1 → ∃ one : Word, exec (.mone n) s = .next (answered s 0x22 [one]) ∧ one.toNat = 2 ^ 64 % n.toNat ∧
      one = toMont 1 n ∧ (n = 1 → one = 0) ∧ (2 ^ 63 < n.toNat → one.toNat = 2 ^ 64 - n.toNat) ∧
      (3 ≤ n.toNat → toMont (n - 1) n = n - one)) ∧
    (n.toNat % 2 = 0 → exec (.mone n) s = .next (trapped s 0x0422 0x04))

/-- R196, R197: in its domain `MMUL` delivers the one residue `r` with `r · 2^64 ≡ a · b` modulo `n`, and `one` is its
identity; outside it the command faults. -/
def Obligations.MmulDeliversMontgomeryProduct : Prop :=
  ∀ (a b n nInv : Word) (s : State), encode (.mmul a b n nInv) = [0x23, a, b, n, nInv] ∧
    (n.toNat % 2 = 1 → n.toNat * nInv.toNat % 2 ^ 64 = 1 → a.toNat < n.toNat → b.toNat < n.toNat →
      ∃ r : Word, exec (.mmul a b n nInv) s = .next (answered s 0x23 [r]) ∧ r.toNat < n.toNat ∧
        r.toNat * 2 ^ 64 % n.toNat = a.toNat * b.toNat % n.toNat ∧
        (∀ r' : Word, r'.toNat < n.toNat → r'.toNat * 2 ^ 64 % n.toNat = a.toNat * b.toNat % n.toNat → r' = r) ∧
        (a.toNat = 2 ^ 64 % n.toNat → r = b)) ∧
    (n.toNat % 2 = 0 ∨ n.toNat * nInv.toNat % 2 ^ 64 ≠ 1 ∨ n.toNat ≤ a.toNat ∨ n.toNat ≤ b.toNat →
      exec (.mmul a b n nInv) s = .next (trapped s 0x0423 0x04))

/-- R198, R199: in its domain `MPOW` delivers a residue; from the Montgomery form of `g` it is that of `g ^ exp` (`0 ^ 0 = 1`);
outside it the command faults. -/
def Obligations.MpowDeliversThePower : Prop :=
  ∀ (base exp n nInv one : Word) (s : State),
    encode (.mpow base exp n nInv one) = [0x24, base, exp, n, nInv, one] ∧
    (n.toNat % 2 = 1 → n.toNat * nInv.toNat % 2 ^ 64 = 1 → one.toNat = 2 ^ 64 % n.toNat → base.toNat < n.toNat →
      ∃ r : Word, exec (.mpow base exp n nInv one) s = .next (answered s 0x24 [r]) ∧ r.toNat < n.toNat ∧
        (exp = 0 → r = one) ∧
        (∀ g : Nat, base.toNat = g * 2 ^ 64 % n.toNat → r.toNat = g ^ exp.toNat * 2 ^ 64 % n.toNat)) ∧
    (n.toNat % 2 = 0 ∨ n.toNat * nInv.toNat % 2 ^ 64 ≠ 1 ∨ one.toNat ≠ 2 ^ 64 % n.toNat ∨ n.toNat ≤ base.toNat →
      exec (.mpow base exp n nInv one) s = .next (trapped s 0x0424 0x04))

/-- R200 to R202: in its domain `SPRP` delivers 1 exactly when, with `n - 1 = d · 2^sh` and `d` odd, `a^d ≡ 1` or `a^(d·2^j) ≡
-1` modulo `n` for some `j < sh`, and 0 otherwise; outside it the command faults. -/
def Obligations.SprpDecidesStrongProbablePrime : Prop :=
  ∀ (n a nInv one : Word) (s : State), encode (.sprp n a nInv one) = [0x25, n, a, nInv, one] ∧
    (n.toNat % 2 = 1 → 3 ≤ n.toNat → n.toNat * nInv.toNat % 2 ^ 64 = 1 → one.toNat = 2 ^ 64 % n.toNat →
      ∃ t : Word, exec (.sprp n a nInv one) s = .next (answered s 0x25 [t]) ∧ (t = 0 ∨ t = 1) ∧
        (∀ d sh : Nat, n.toNat - 1 = d * 2 ^ sh → d % 2 = 1 →
          (t = 1 ↔ a.toNat ^ d % n.toNat = 1 ∨ ∃ j < sh, a.toNat ^ (d * 2 ^ j) % n.toNat = n.toNat - 1))) ∧
    (n.toNat % 2 = 0 ∨ n.toNat < 3 ∨ n.toNat * nInv.toNat % 2 ^ 64 ≠ 1 ∨ one.toNat ≠ 2 ^ 64 % n.toNat →
      exec (.sprp n a nInv one) s = .next (trapped s 0x0425 0x04))

/-- `ISPRIME` completes for every word with 0 or 1 (R204), and with 1 for every prime: it has no false negative (R206). -/
def Obligations.IsprimeAcceptsEveryPrime : Prop :=
  ∀ (n : Word) (s : State), encode (.isprime n) = [0x26, n] ∧
    ∃ t : Word, exec (.isprime n) s = .next (answered s 0x26 [t]) ∧ (t = 0 ∨ t = 1) ∧ (Nat.Prime n.toNat → t = 1)

/-- `ISPRIME` delivers 0 for 0, 1, every composite multiple of 2, 3, 5 or 7, the pseudoprime, and every composite below 2047
(R203, R206). -/
def Obligations.IsprimeRejectsSmallComposites : Prop :=
  ∀ (n : Word) (s : State), ¬ Nat.Prime n.toNat →
    (n.toNat < 2047 ∨ n.toNat = 3215031751 ∨ 2 ∣ n.toNat ∨ 3 ∣ n.toNat ∨ 5 ∣ n.toNat ∨ 7 ∣ n.toNat) →
    exec (.isprime n) s = .next (answered s 0x26 [0])

/-- R266 check by check, whatever the other operands: an even modulus; an operand that is no residue; the modulus 1 for `SPRP`; the
`n_inv` that `MINV` delivers for another modulus, and the `one` that `MONE` delivers for a modulus with another `2^64 mod n`
(R299; a `one` of the same value passes R208's check, log entry 20). -/
def Obligations.DomainFaultOutsideTheDomain : Prop :=
  ∀ (s : State) (a b n m nInv one base exp x : Word),
    (n.toNat % 2 = 0 → exec (.minv n) s = .next (trapped s 0x0420 0x04) ∧
      exec (.tomont x n) s = .next (trapped s 0x0421 0x04) ∧ exec (.mone n) s = .next (trapped s 0x0422 0x04) ∧
      exec (.mmul a b n nInv) s = .next (trapped s 0x0423 0x04) ∧
      exec (.mpow base exp n nInv one) s = .next (trapped s 0x0424 0x04) ∧
      exec (.sprp n a nInv one) s = .next (trapped s 0x0425 0x04)) ∧
    (n.toNat ≤ a.toNat ∨ n.toNat ≤ b.toNat → exec (.mmul a b n nInv) s = .next (trapped s 0x0423 0x04)) ∧
    (n.toNat ≤ base.toNat → exec (.mpow base exp n nInv one) s = .next (trapped s 0x0424 0x04)) ∧
    (n.toNat < 3 → exec (.sprp n a nInv one) s = .next (trapped s 0x0425 0x04)) ∧
    (n ≠ m → exec (.minv m) s = .next (answered s 0x20 [nInv]) →
      exec (.mmul a b n nInv) s = .next (trapped s 0x0423 0x04) ∧
      exec (.mpow base exp n nInv one) s = .next (trapped s 0x0424 0x04) ∧
      exec (.sprp n a nInv one) s = .next (trapped s 0x0425 0x04)) ∧
    (2 ^ 64 % n.toNat ≠ 2 ^ 64 % m.toNat → exec (.mone m) s = .next (answered s 0x22 [one]) →
      exec (.mpow base exp n nInv one) s = .next (trapped s 0x0424 0x04) ∧
      exec (.sprp n a nInv one) s = .next (trapped s 0x0425 0x04))

/-- Beyond trial division and the pseudoprime, `ISPRIME` delivers 1 exactly when the word is a strong probable prime, in the plain
arithmetic of R202, to base 2 and, from 2047 on, to each of the eleven witnesses (R203, R204). It says nothing of the witness
set's sufficiency (log entry 17). -/
def Obligations.IsprimeAppliesTheWitnessSet : Prop :=
  ∀ (n : Word) (s : State), 11 ≤ n.toNat → Nat.Coprime n.toNat 210 → n.toNat ≠ 3215031751 →
    ∃ t : Word, exec (.isprime n) s = .next (answered s 0x26 [t]) ∧ (t = 0 ∨ t = 1) ∧
      (t = 1 ↔ PassesRound n.toNat 2 ∧
        (2047 ≤ n.toNat → ∀ a ∈ [3, 5, 7, 11, 13, 17, 19, 23, 29, 31, 37], PassesRound n.toNat a))

/-! The secret generator. -/

/-- R243: byte `k` of a candidate is the table byte its `k`-th draw selects, eight draws advance the state by `8·K0`, and under
R10(c) its population count is 32. -/
def Obligations.CandidateAssembledFromDraws : Prop :=
  ∀ (p : Params) (s0 : Word),
    (candidate p s0).2 = s0 + 8 * p.prngK0 ∧
    (∀ k, k < 8 → (candidate p s0).1.extractLsb' (8 * k) 8 =
      p.cand.getD ((rand p (s0 + BitVec.ofNat 64 k * p.prngK0)).1.toNat % p.cand.length) 0) ∧
    (p.candOk = true → popcount (candidate p s0).1 = 32)

/-- `MKSEC` loads the PRNG state from its operand and begins with word 0 and no rejections; nothing else changes and `BUSY`
stays as it is, the response yet to come (R241, R242, R280). The search in steps is the model's choice (log entry 10). -/
def Obligations.MksecBeginsSearch : Prop :=
  ∀ (seed : Word) (s : State), encode (.mksec seed) = [0x30, seed] ∧
    exec (.mksec seed) s = .next { s with activity := .generating ⟨seed, [], 0⟩ }

/-- One candidate of a search (R241, R244 to R247): accepted, it is the next word, and the ninth delivers the table; rejected,
the search goes on, or with a retry ceiling exceeded takes `GenFail` and delivers none of the words (R267, R270). One candidate
a step is the model's choice (log entry 10). -/
def Obligations.SearchExaminesOneCandidate : Prop :=
  ∀ (s : State) (g : Generator), s.activity = .generating g → s.host = [] →
    let w := (candidate s.params g.s).1
    let next := g.s + 8 * s.params.prngK0
    (Good g.out w → g.out.length + 1 < 9 → step s = .next { s with activity := .generating ⟨next, g.out ++ [w], 0⟩ }) ∧
    (Good g.out w → 9 ≤ g.out.length + 1 → step s = .next (answered s 0x30 (g.out ++ [w]))) ∧
    (¬ Good g.out w → s.params.retryLimit = none →
      step s = .next { s with activity := .generating ⟨next, g.out, g.tries⟩ }) ∧
    (∀ limit, ¬ Good g.out w → s.params.retryLimit = some limit →
      (g.tries + 1 ≤ limit → step s = .next { s with activity := .generating ⟨next, g.out, g.tries + 1⟩ }) ∧
      (limit < g.tries + 1 → step s = .next (trapped s 0x0530 0x05)))

/-- `MKSEC` from its descriptor to its response, without a retry ceiling and undisturbed: after the step that runs the
descriptor and `k` more, the search holds the words accepted among the first `k` candidates of the sequence `seed` determines;
the step that accepts the ninth delivers them, and nothing else of the unit has changed (R241, R242, R280, R297). One candidate
a step is the model's choice (log entry 10). -/
def Obligations.MksecRunDeliversAcceptedWords : Prop :=
  ∀ (s : State) (seed : Word) (k : Nat), s.activity = .accepted [0x30, seed] → s.host = [] → s.status.fault = false →
    s.params.retryLimit = none → (acceptedAmong s.params seed k).length < 9 →
    Sys2Proof.core.run (1 + k) s = .next { s with
      activity := .generating ⟨seed + BitVec.ofNat 64 (8 * k) * s.params.prngK0, acceptedAmong s.params seed k, 0⟩ } ∧
    ((acceptedAmong s.params seed (k + 1)).length = 9 →
      Sys2Proof.core.run (1 + (k + 1)) s = .next (answered s 0x30 (acceptedAmong s.params seed (k + 1))))

/-- Every table `MKSEC` delivers has nine words, each odd, of population count 32 and passing R203, each pair at distance
exactly 32 (R248, with R203 for primality). -/
def Obligations.DeliveredTableIsAcceptable : Prop :=
  ∀ (s t : State) (h : Word) (res : List Word), s.Inv → step s = .next t → t.rspq = s.rspq ++ [h :: res] →
    responseEcode h = 0 → headerOpc h = 0x30 →
    res.length = 9 ∧ (∀ w ∈ res, w.toNat % 2 = 1 ∧ popcount w = 32 ∧ isPrime w = true) ∧
      res.Pairwise (fun x y => popcount (x ^^^ y) = 32)
end

