-- ==== Sys2Proof/Laws/Memory.lean ====
section
/-! SUPPORT. The message space: read after write, and the canonical form kept by every operation. -/

namespace Sys2Proof.Machine

@[simp] theorem Memory.read_nil (a : Nat) : Memory.read [] a = unlistedByte := rfl

@[simp] theorem Memory.read_cons (k : Nat) (b : Byte) (m : Memory) (a : Nat) :
    Memory.read ((k, b) :: m) a = if k = a then b else Memory.read m a := rfl

/-- The canonical form, cell by cell. -/
theorem Memory.wf_cons (k : Nat) (b : Byte) (m : Memory) :
    Memory.wf ((k, b) :: m) = true ↔
      k < 2 ^ 64 ∧ b ≠ unlistedByte ∧ (∀ c ∈ m, k < c.1) ∧ Memory.wf m = true := by
  simp only [Memory.wf, List.pairwise_cons, List.all_cons, Bool.and_eq_true, decide_eq_true_eq, bne_iff_ne]
  tauto

@[simp] theorem Memory.wf_nil : Memory.wf [] = true := by decide

/-- An offset below every listed one is unlisted. -/
theorem Memory.read_of_lt {m : Memory} {a : Nat} (h : ∀ c ∈ m, a < c.1) : m.read a = unlistedByte := by
  induction m with
  | nil => rfl
  | cons c m ih =>
    obtain ⟨k, b⟩ := c
    have := h (k, b) (by simp)
    rw [Memory.read_cons, if_neg (by simp at this; omega), ih fun c hc => h c (by simp [hc])]

/-- A write lists no offset but its own and those listed before. -/
theorem Memory.mem_write {m : Memory} {a : Nat} {b : Byte} {c : Host.Cell} (h : c ∈ m.write a b) :
    c ∈ m ∨ c = (a, b) := by
  induction m with
  | nil =>
    simp only [Memory.write] at h
    split at h <;> simp_all
  | cons d m ih =>
    obtain ⟨k, x⟩ := d
    simp only [Memory.write] at h
    split_ifs at h <;> simp only [List.mem_cons] at h ⊢ <;> tauto

/-- What a write does at the head of the list: below it, at it, above it. -/
theorem Memory.write_cons (k : Nat) (y : Byte) (m : Memory) (a : Nat) (b : Byte) :
    Memory.write ((k, y) :: m) a b =
      if a < k then (if b = unlistedByte then (k, y) :: m else (a, b) :: (k, y) :: m)
      else if a = k then (if b = unlistedByte then m else (a, b) :: m)
      else (k, y) :: Memory.write m a b := rfl

/-- Reading after a write: the written offset gives the byte, every other offset what it gave (R50). -/
theorem Memory.read_write {m : Memory} (wf : m.wf = true) (a : Nat) (b : Byte) (x : Nat) :
    Memory.read (Memory.write m a b) x = if x = a then b else Memory.read m x := by
  induction m with
  | nil =>
    by_cases hb : b = unlistedByte <;> simp [Memory.write, hb, eq_comm]
  | cons c m ih =>
    obtain ⟨k, y⟩ := c
    obtain ⟨_, _, above, wfm⟩ := (Memory.wf_cons k y m).1 wf
    have unlisted (h : a ≤ k) (ne : a = k ∨ a < k) : Memory.read m a = unlistedByte :=
      Memory.read_of_lt fun c hc => by have := above c hc; omega
    rw [Memory.write_cons]
    rcases lt_trichotomy a k with lt | rfl | gt
    · rw [if_pos lt]
      by_cases hb : b = unlistedByte
      · by_cases hx : x = a
        · subst hx; simp [hb, unlisted lt.le (.inr lt), show k ≠ x by omega]
        · simp [hb, hx]
      · simp [hb, eq_comm]
    · rw [if_neg (lt_irrefl _), if_pos rfl]
      by_cases hx : x = a
      · subst hx
        by_cases hb : b = unlistedByte <;> simp [hb, unlisted le_rfl (.inl rfl)]
      · by_cases hb : b = unlistedByte <;> simp [hb, hx, Ne.symm hx]
    · rw [if_neg (by omega), if_neg (by omega), Memory.read_cons, ih wfm, Memory.read_cons]
      by_cases hk : k = x
      · simp [hk, show x ≠ a by omega]
      · simp [hk]

/-- A write at a 64-bit offset keeps the canonical form. -/
theorem Memory.wf_write {m : Memory} (wf : m.wf = true) {a : Nat} (ha : a < 2 ^ 64) (b : Byte) :
    (m.write a b).wf = true := by
  induction m with
  | nil =>
    simp only [Memory.write]
    split_ifs with hb
    · rfl
    · exact (Memory.wf_cons a b []).2 ⟨ha, hb, by simp, rfl⟩
  | cons c m ih =>
    obtain ⟨k, y⟩ := c
    obtain ⟨hk, hy, above, wfm⟩ := (Memory.wf_cons k y m).1 wf
    simp only [Memory.write]
    split_ifs with lt hb eq hb
    · exact wf
    · refine (Memory.wf_cons a b _).2 ⟨ha, hb, ?_, wf⟩
      intro c hc
      rcases List.mem_cons.1 hc with rfl | hc
      · exact lt
      · exact lt.trans (above c hc)
    · exact wfm
    · subst eq; exact (Memory.wf_cons a b m).2 ⟨ha, hb, above, wfm⟩
    · refine (Memory.wf_cons k y _).2 ⟨hk, hy, ?_, ih wfm⟩
      intro c hc
      rcases Memory.mem_write hc with hc | rfl
      · exact above c hc
      · simp; omega

/-- The host's write keeps the canonical form; no other operation touches the message. -/
theorem State.hostWrite_keeps_wf {s : State} (wf : s.msg.wf = true) (off : Word) (b : Byte) :
    (s.hostWrite off b).msg.wf = true := Memory.wf_write wf off.isLt b

end Sys2Proof.Machine
end

