-- ==== Sys2Proof/Laws/State.lean ====
section
/-! SUPPORT. One lemma per field per update of State, true by rfl, so that no proof unfolds a record update. -/

namespace Sys2Proof.Machine

variable (s : State)

@[simp] theorem State.finish_params (r : List Word) : (s.finish r).params = s.params := rfl
@[simp] theorem State.finish_status (r : List Word) : (s.finish r).status = { s.status with busy := false } := rfl
@[simp] theorem State.finish_activity (r : List Word) : (s.finish r).activity = .idle := rfl
@[simp] theorem State.finish_ext (r : List Word) : (s.finish r).ext = s.ext := rfl
@[simp] theorem State.finish_msg (r : List Word) : (s.finish r).msg = s.msg := rfl
@[simp] theorem State.finish_stale (r : List Word) : (s.finish r).stale = [] := rfl
@[simp] theorem State.finish_draws (r : List Word) : (s.finish r).draws = s.draws := rfl
@[simp] theorem State.finish_rspq (r : List Word) : (s.finish r).rspq = s.rspq ++ [r] := rfl
@[simp] theorem State.finish_host (r : List Word) : (s.finish r).host = s.host := rfl

@[simp] theorem State.deliver_params (opc : BitVec 8) (res : List Word) : (s.deliver opc res).params = s.params := rfl
@[simp] theorem State.deliver_status (opc : BitVec 8) (res : List Word) : (s.deliver opc res).status = { s.status with busy := false } := rfl
@[simp] theorem State.deliver_activity (opc : BitVec 8) (res : List Word) : (s.deliver opc res).activity = .idle := rfl
@[simp] theorem State.deliver_ext (opc : BitVec 8) (res : List Word) : (s.deliver opc res).ext = s.ext := rfl
@[simp] theorem State.deliver_msg (opc : BitVec 8) (res : List Word) : (s.deliver opc res).msg = s.msg := rfl
@[simp] theorem State.deliver_stale (opc : BitVec 8) (res : List Word) : (s.deliver opc res).stale = [] := rfl
@[simp] theorem State.deliver_draws (opc : BitVec 8) (res : List Word) : (s.deliver opc res).draws = s.draws := rfl
@[simp] theorem State.deliver_rspq (opc : BitVec 8) (res : List Word) : (s.deliver opc res).rspq = s.rspq ++ [responseHeader opc 0 :: res] := rfl
@[simp] theorem State.deliver_host (opc : BitVec 8) (res : List Word) : (s.deliver opc res).host = s.host := rfl

@[simp] theorem State.raiseFault_params (opc : BitVec 8) (f : CommandFault) : (s.raiseFault opc f).params = s.params := rfl
@[simp] theorem State.raiseFault_status (opc : BitVec 8) (f : CommandFault) : (s.raiseFault opc f).status = { s.status.latch f with busy := false } := rfl
@[simp] theorem State.raiseFault_activity (opc : BitVec 8) (f : CommandFault) : (s.raiseFault opc f).activity = .idle := rfl
@[simp] theorem State.raiseFault_ext (opc : BitVec 8) (f : CommandFault) : (s.raiseFault opc f).ext = s.ext := rfl
@[simp] theorem State.raiseFault_msg (opc : BitVec 8) (f : CommandFault) : (s.raiseFault opc f).msg = s.msg := rfl
@[simp] theorem State.raiseFault_stale (opc : BitVec 8) (f : CommandFault) : (s.raiseFault opc f).stale = [] := rfl
@[simp] theorem State.raiseFault_draws (opc : BitVec 8) (f : CommandFault) : (s.raiseFault opc f).draws = s.draws := rfl
@[simp] theorem State.raiseFault_rspq (opc : BitVec 8) (f : CommandFault) : (s.raiseFault opc f).rspq = s.rspq ++ [[responseHeader opc (faultCode f)]] := rfl
@[simp] theorem State.raiseFault_host (opc : BitVec 8) (f : CommandFault) : (s.raiseFault opc f).host = s.host := rfl

@[simp] theorem State.refuse_params (opc : BitVec 8) : (s.refuse opc).params = s.params := rfl
@[simp] theorem State.refuse_status (opc : BitVec 8) : (s.refuse opc).status = { s.status with busy := false } := rfl
@[simp] theorem State.refuse_activity (opc : BitVec 8) : (s.refuse opc).activity = .idle := rfl
@[simp] theorem State.refuse_ext (opc : BitVec 8) : (s.refuse opc).ext = s.ext := rfl
@[simp] theorem State.refuse_msg (opc : BitVec 8) : (s.refuse opc).msg = s.msg := rfl
@[simp] theorem State.refuse_stale (opc : BitVec 8) : (s.refuse opc).stale = [] := rfl
@[simp] theorem State.refuse_draws (opc : BitVec 8) : (s.refuse opc).draws = s.draws := rfl
@[simp] theorem State.refuse_rspq (opc : BitVec 8) : (s.refuse opc).rspq = s.rspq ++ [[responseHeader opc refusedCode]] := rfl
@[simp] theorem State.refuse_host (opc : BitVec 8) : (s.refuse opc).host = s.host := rfl

@[simp] theorem State.accept_params (frame : List Word) (ext : Nat) : (s.accept frame ext).params = s.params := rfl
@[simp] theorem State.accept_status (frame : List Word) (ext : Nat) : (s.accept frame ext).status = { s.status with busy := true } := rfl
@[simp] theorem State.accept_activity (frame : List Word) (ext : Nat) : (s.accept frame ext).activity = .accepted frame := rfl
@[simp] theorem State.accept_ext (frame : List Word) (ext : Nat) : (s.accept frame ext).ext = ext := rfl
@[simp] theorem State.accept_msg (frame : List Word) (ext : Nat) : (s.accept frame ext).msg = s.msg := rfl
@[simp] theorem State.accept_stale (frame : List Word) (ext : Nat) : (s.accept frame ext).stale = [] := rfl
@[simp] theorem State.accept_draws (frame : List Word) (ext : Nat) : (s.accept frame ext).draws = s.draws := rfl
@[simp] theorem State.accept_rspq (frame : List Word) (ext : Nat) : (s.accept frame ext).rspq = s.rspq := rfl
@[simp] theorem State.accept_host (frame : List Word) (ext : Nat) : (s.accept frame ext).host = s.host := rfl

@[simp] theorem State.afterReset_params : (s.afterReset).params = s.params := rfl
@[simp] theorem State.afterReset_status : (s.afterReset).status = { busy := false, fault := false, ecode := 0 } := rfl
@[simp] theorem State.afterReset_activity : (s.afterReset).activity = .idle := rfl
@[simp] theorem State.afterReset_ext : (s.afterReset).ext = s.ext := rfl
@[simp] theorem State.afterReset_msg : (s.afterReset).msg = s.msg := rfl
@[simp] theorem State.afterReset_stale : (s.afterReset).stale = [] := rfl
@[simp] theorem State.afterReset_draws : (s.afterReset).draws = s.draws := rfl
@[simp] theorem State.afterReset_rspq : (s.afterReset).rspq = [] := rfl
@[simp] theorem State.afterReset_host : (s.afterReset).host = s.host := rfl

@[simp] theorem State.hostWrite_params (off : Word) (b : Byte) : (s.hostWrite off b).params = s.params := rfl
@[simp] theorem State.hostWrite_status (off : Word) (b : Byte) : (s.hostWrite off b).status = s.status := rfl
@[simp] theorem State.hostWrite_activity (off : Word) (b : Byte) : (s.hostWrite off b).activity = s.activity := rfl
@[simp] theorem State.hostWrite_ext (off : Word) (b : Byte) : (s.hostWrite off b).ext = s.ext := rfl
@[simp] theorem State.hostWrite_msg (off : Word) (b : Byte) : (s.hostWrite off b).msg = s.msg.write off.toNat b := rfl
@[simp] theorem State.hostWrite_stale (off : Word) (b : Byte) : (s.hostWrite off b).stale = if s.status.busy then (off.toNat, s.msg.read off.toNat) :: s.stale else s.stale := rfl
@[simp] theorem State.hostWrite_draws (off : Word) (b : Byte) : (s.hostWrite off b).draws = s.draws := rfl
@[simp] theorem State.hostWrite_rspq (off : Word) (b : Byte) : (s.hostWrite off b).rspq = s.rspq := rfl
@[simp] theorem State.hostWrite_host (off : Word) (b : Byte) : (s.hostWrite off b).host = s.host := rfl

@[simp] theorem State.withHost_params (rest : List HostInput) : (s.withHost rest).params = s.params := rfl
@[simp] theorem State.withHost_status (rest : List HostInput) : (s.withHost rest).status = s.status := rfl
@[simp] theorem State.withHost_activity (rest : List HostInput) : (s.withHost rest).activity = s.activity := rfl
@[simp] theorem State.withHost_ext (rest : List HostInput) : (s.withHost rest).ext = s.ext := rfl
@[simp] theorem State.withHost_msg (rest : List HostInput) : (s.withHost rest).msg = s.msg := rfl
@[simp] theorem State.withHost_stale (rest : List HostInput) : (s.withHost rest).stale = s.stale := rfl
@[simp] theorem State.withHost_draws (rest : List HostInput) : (s.withHost rest).draws = s.draws := rfl
@[simp] theorem State.withHost_rspq (rest : List HostInput) : (s.withHost rest).rspq = s.rspq := rfl
@[simp] theorem State.withHost_host (rest : List HostInput) : (s.withHost rest).host = rest := rfl

@[simp] theorem State.generate_params (g : Generator) : (s.generate g).params = s.params := rfl
@[simp] theorem State.generate_status (g : Generator) : (s.generate g).status = s.status := rfl
@[simp] theorem State.generate_activity (g : Generator) : (s.generate g).activity = .generating g := rfl
@[simp] theorem State.generate_ext (g : Generator) : (s.generate g).ext = s.ext := rfl
@[simp] theorem State.generate_msg (g : Generator) : (s.generate g).msg = s.msg := rfl
@[simp] theorem State.generate_stale (g : Generator) : (s.generate g).stale = s.stale := rfl
@[simp] theorem State.generate_draws (g : Generator) : (s.generate g).draws = s.draws := rfl
@[simp] theorem State.generate_rspq (g : Generator) : (s.generate g).rspq = s.rspq := rfl
@[simp] theorem State.generate_host (g : Generator) : (s.generate g).host = s.host := rfl

@[simp] theorem State.countDraw_params : (s.countDraw).params = s.params := rfl
@[simp] theorem State.countDraw_status : (s.countDraw).status = s.status := rfl
@[simp] theorem State.countDraw_activity : (s.countDraw).activity = s.activity := rfl
@[simp] theorem State.countDraw_ext : (s.countDraw).ext = s.ext := rfl
@[simp] theorem State.countDraw_msg : (s.countDraw).msg = s.msg := rfl
@[simp] theorem State.countDraw_stale : (s.countDraw).stale = s.stale := rfl
@[simp] theorem State.countDraw_draws : (s.countDraw).draws = s.draws + 1 := rfl
@[simp] theorem State.countDraw_rspq : (s.countDraw).rspq = s.rspq := rfl
@[simp] theorem State.countDraw_host : (s.countDraw).host = s.host := rfl

end Sys2Proof.Machine
end

