-- ==== Sys2Proof/Laws/Ops.lean ====
section
/-! SUPPORT. One lemma per shared operation that says what it can do: the message reads, the exact product, the hash commands' and
the Montgomery commands' common bodies, and a search step. -/

namespace Sys2Proof.Machine

/-! Little-endian assembly. -/

@[simp] theorem leValue_nil : leValue [] = 0 := rfl

@[simp] theorem leValue_cons (b : Byte) (bs : List Byte) : leValue (b :: bs) = b.toNat + 2 ^ 8 * leValue bs := rfl

theorem leValue_lt (bs : List Byte) : leValue bs < 2 ^ (8 * bs.length) := by
  induction bs with
  | nil => simp
  | cons b bs ih =>
    have := b.isLt
    simp only [leValue_cons, List.length_cons, Nat.mul_add, pow_add]
    omega

/-- At most eight bytes fit a word whole. -/
theorem leWord_toNat {bs : List Byte} (h : bs.length ≤ 8) : (leWord bs).toNat = leValue bs := by
  have : leValue bs < 2 ^ 64 := (leValue_lt bs).trans_le (Nat.pow_le_pow_right (by decide) (by omega))
  rw [leWord, BitVec.toNat_ofNat, Nat.mod_eq_of_lt this]

/-! Message reads. -/

/-- A byte the host has not changed since acceptance reads as it stands. -/
theorem State.fetchByte_of_not_stale {s : State} {off : Nat} (h : ∀ c ∈ s.stale, c.1 ≠ off) (pass : ReadPass) :
    s.fetchByte pass off = s.msg.read off := by
  have : s.stale.filter (fun c => c.1 == off) = [] := by
    simpa [List.filter_eq_nil_iff] using h
  simp [State.fetchByte, this]

/-- `MemRead` answers exactly inside the message, with the little-endian word of the bytes it fetches. -/
theorem State.memRead_eq_some_iff (s : State) (len off : Word) (pass : ReadPass) (n : Nat) (v : Word) :
    s.memRead len pass off n = some v ↔
      off.toNat + n ≤ len.toNat ∧ v = leWord ((List.range n).map fun k => s.fetchByte pass (off.toNat + k)) := by
  unfold State.memRead
  split_ifs with h
  · simp [h, eq_comm]
  · simp [h]

theorem State.memRead_inside {s : State} {len off : Word} {n : Nat} (h : off.toNat + n ≤ len.toNat) (pass : ReadPass) :
    s.memRead len pass off n = some (leWord ((List.range n).map fun k => s.fetchByte pass (off.toNat + k))) :=
  (s.memRead_eq_some_iff len off pass n _).2 ⟨h, rfl⟩

/-! The multiplier (R110). -/

theorem mul128_lt (a b : Word) : a.toNat * b.toNat < 2 ^ 64 * 2 ^ 64 :=
  Nat.mul_lt_mul'' a.isLt b.isLt

theorem mul128_lo (a b : Word) : (mul128 a b).1.toNat = a.toNat * b.toNat % 2 ^ 64 := by
  simp [mul128]

theorem mul128_hi (a b : Word) : (mul128 a b).2.toNat = a.toNat * b.toNat / 2 ^ 64 := by
  have := Nat.div_lt_of_lt_mul (mul128_lt a b)
  simp only [mul128, BitVec.toNat_ofNat]
  exact Nat.mod_eq_of_lt this

theorem mul128_comm (a b : Word) : mul128 a b = mul128 b a := by
  simp [mul128, Nat.mul_comm]

/-! The hash commands' common body. -/

/-- A hash command faults on its span check, or its `core` finds a read outside the message, or it delivers `core`'s digest. -/
theorem runHash_cases (opc : BitVec 8) (S : SecretTable) (seed len : Word) (s : State) :
    (s.ext < len.toNat ∧ runHash opc S seed len s = .next (s.raiseFault opc .spanFault)) ∨
    (len.toNat ≤ s.ext ∧ hashCore s S seed len = none ∧ runHash opc S seed len s = .fault .readOutsideSpan) ∨
    (len.toNat ≤ s.ext ∧ ∃ d, hashCore s S seed len = some d ∧
      runHash opc S seed len s = .next (s.countDraw.deliver opc [d])) := by
  unfold runHash
  split_ifs with h
  · exact .inl ⟨h, rfl⟩
  · right
    cases hc : hashCore s S seed len with
    | none => exact .inl ⟨by omega, rfl, rfl⟩
    | some d => exact .inr ⟨by omega, d, rfl, rfl⟩

/-! The Montgomery commands' common body. -/

theorem runMont_of_domain {domain : Bool} (h : domain = true) (opc : BitVec 8) (r : Word) (s : State) :
    runMont opc domain r s = .next (s.deliver opc [r]) := by simp [runMont, h]

theorem runMont_of_not_domain {domain : Bool} (h : domain = false) (opc : BitVec 8) (r : Word) (s : State) :
    runMont opc domain r s = .next (s.raiseFault opc .domainFault) := by simp [runMont, h]

/-- A Montgomery command always answers: a result or `DomainFault`. -/
theorem runMont_cases (opc : BitVec 8) (domain : Bool) (r : Word) (s : State) :
    runMont opc domain r s = .next (s.deliver opc [r]) ∨ runMont opc domain r s = .next (s.raiseFault opc .domainFault) := by
  cases domain with
  | true => exact .inl (runMont_of_domain rfl opc r s)
  | false => exact .inr (runMont_of_not_domain rfl opc r s)

theorem oddMod_iff (n : Word) : oddMod n = true ↔ n.toNat % 2 = 1 := by
  simp [oddMod, BitVec.getLsbD, Nat.testBit_zero]

theorem invOk_iff (n nInv : Word) : invOk n nInv = true ↔ n.toNat * nInv.toNat % 2 ^ 64 = 1 := by
  rw [invOk, beq_iff_eq, ← BitVec.toNat_inj, BitVec.toNat_mul]
  rfl

theorem oneOk_iff (n one : Word) : oneOk n one = true ↔ one.toNat = 2 ^ 64 % n.toNat := by
  simp [oneOk]

theorem isResidue_iff (v n : Word) : isResidue v n = true ↔ v.toNat < n.toNat := by simp [isResidue]

/-! The search. -/

/-- What one candidate does to a search: accepted as one more word or the ninth, or rejected with the search going on or failed. -/
theorem searchStep_cases (p : Params) (g : Generator) :
    (acceptable g.out (candidate p g.s).1 = true ∧ g.out.length + 1 < 9 ∧
      searchStep p g = .running ⟨(candidate p g.s).2, g.out ++ [(candidate p g.s).1], 0⟩) ∨
    (acceptable g.out (candidate p g.s).1 = true ∧ 9 ≤ g.out.length + 1 ∧
      searchStep p g = .table (g.out ++ [(candidate p g.s).1])) ∨
    (acceptable g.out (candidate p g.s).1 = false ∧ p.retryLimit = none ∧
      searchStep p g = .running ⟨(candidate p g.s).2, g.out, g.tries⟩) ∨
    (∃ limit, acceptable g.out (candidate p g.s).1 = false ∧ p.retryLimit = some limit ∧ limit < g.tries + 1 ∧
      searchStep p g = .failed) ∨
    (∃ limit, acceptable g.out (candidate p g.s).1 = false ∧ p.retryLimit = some limit ∧ g.tries + 1 ≤ limit ∧
      searchStep p g = .running ⟨(candidate p g.s).2, g.out, g.tries + 1⟩) := by
  unfold searchStep
  generalize candidate p g.s = c
  obtain ⟨w, s'⟩ := c
  dsimp only
  by_cases ha : acceptable g.out w = true
  · rw [if_pos ha, List.length_append, List.length_singleton]
    by_cases hl : g.out.length + 1 < 9
    · exact .inl ⟨ha, hl, if_pos hl⟩
    · exact .inr (.inl ⟨ha, by omega, if_neg hl⟩)
  · rw [if_neg ha]
    have ha' : acceptable g.out w = false := by simpa using ha
    cases hr : p.retryLimit with
    | none => exact .inr (.inr (.inl ⟨ha', rfl, rfl⟩))
    | some limit =>
      dsimp only
      by_cases hl : limit < g.tries + 1
      · exact .inr (.inr (.inr (.inl ⟨limit, ha', rfl, hl, if_pos hl⟩)))
      · exact .inr (.inr (.inr (.inr ⟨limit, ha', rfl, by omega, if_neg hl⟩)))

/-- A search in progress goes on, delivers its table, or fails. -/
theorem State.searchOn_cases (s : State) (g : Generator) :
    (∃ g', searchStep s.params g = .running g' ∧ s.searchOn g = s.generate g') ∨
    (∃ out, searchStep s.params g = .table out ∧ s.searchOn g = s.deliver 0x30 out) ∨
    (searchStep s.params g = .failed ∧ s.searchOn g = s.raiseFault 0x30 .genFail) := by
  unfold State.searchOn
  cases h : searchStep s.params g with
  | running g' => exact .inl ⟨g', rfl, rfl⟩
  | table out => exact .inr (.inl ⟨out, rfl, rfl⟩)
  | failed => exact .inr (.inr ⟨rfl, rfl⟩)

/-! Every command. -/

/-- What a command's meaning can do, for all commands at once: deliver results; deliver a hash digest and count it; take a fault
of its own; begin a search; or, for a hash command, find a read outside the message. -/
inductive ExecOutcome (i : Instr) (s : State) : Host.Outcome State Fault Refusal → Prop where
  | delivers (results : List Word) : ExecOutcome i s (.next (s.deliver i.opc results))
  | hashes (d : Word) : ExecOutcome i s (.next (s.countDraw.deliver i.opc [d]))
  | spanFaults : ExecOutcome i s (.next (s.raiseFault i.opc .spanFault))
  | domainFaults : ExecOutcome i s (.next (s.raiseFault i.opc .domainFault))
  | begins (seed : Word) (mksec : i = .mksec seed) : ExecOutcome i s (.next (s.generate ⟨seed, [], 0⟩))
  | readsOutside (S : SecretTable) (seed len : Word) (none : hashCore s S seed len = none) :
      ExecOutcome i s (.fault .readOutsideSpan)

theorem ExecOutcome.of_runHash (i : Instr) (S : SecretTable) (seed len : Word) (s : State) :
    ExecOutcome i s (runHash i.opc S seed len s) := by
  rcases runHash_cases i.opc S seed len s with ⟨_, h⟩ | ⟨_, none, h⟩ | ⟨_, d, _, h⟩ <;> rw [h]
  · exact .spanFaults
  · exact .readsOutside S seed len none
  · exact .hashes d

theorem ExecOutcome.of_runMont (i : Instr) (domain : Bool) (r : Word) (s : State) :
    ExecOutcome i s (runMont i.opc domain r s) := by
  rcases runMont_cases i.opc domain r s with h | h <;> rw [h]
  · exact .delivers _
  · exact .domainFaults

theorem exec_outcome (i : Instr) (s : State) : ExecOutcome i s (exec i s) := by
  cases i with
  | mul128 a b => exact .delivers _
  | mix a b => exact .delivers _
  | mum a b => exact .delivers _
  | rand x => exact .delivers _
  | hash len => exact .of_runHash (.hash len) _ _ _ s
  | hashs len seed => exact .of_runHash (.hashs len seed) _ _ _ s
  | hashk len seed S => exact .of_runHash (.hashk len seed S) _ _ _ s
  | minv n => exact .of_runMont (.minv n) (oddMod n) (montInv n) s
  | tomont x n => exact .of_runMont (.tomont x n) (oddMod n) (toMont x n) s
  | mone n => exact .of_runMont (.mone n) (oddMod n) (montOne n) s
  | mmul a b n nInv => exact .of_runMont (.mmul a b n nInv) _ _ s
  | mpow b e n nInv one => exact .of_runMont (.mpow b e n nInv one) _ _ s
  | sprp n a nInv one => exact .of_runMont (.sprp n a nInv one) _ _ s
  | isprime n => exact .delivers _
  | mksec seed => exact .begins seed rfl

end Sys2Proof.Machine
end

