-- ==== Sys2Proof/Laws/PerInstr.lean ====
section
/-! SUPPORT. Families of statements made per command, one lemma per constructor of Instr. -/

namespace Sys2Proof.Laws

/-- A header made of an operation code alone has `RSV = 0` (R82). -/
theorem headerRsv_of_opc (opc : BitVec 8) : headerRsv (opc.setWidth 64) = 0 := by
  have := opc.isLt
  apply BitVec.eq_of_toNat_eq
  simp only [headerRsv, BitVec.extractLsb'_toNat, BitVec.toNat_setWidth]
  have : (0 : BitVec 56).toNat = 0 := rfl
  omega

/-- A command's encoding is a legal frame (R81 to R83, R89, R90): its header's `RSV` is 0, its `OPC` has a row of the opcode map,
and the frame has that row's `1 + NOPS` words. -/
def LegalFrame.Statement (i : Instr) : Prop :=
  ∃ header operands row, encode i = header :: operands ∧ headerRsv header = 0 ∧ opcodeRow (headerOpc header) = some row ∧
    row.opc = i.opc ∧ operands.length = row.nops

theorem LegalFrame.mul128 (a b : Word) : LegalFrame.Statement (.mul128 a b) :=
  ⟨_, _, _, rfl, headerRsv_of_opc _, rfl, rfl, rfl⟩
theorem LegalFrame.mix (a b : Word) : LegalFrame.Statement (.mix a b) :=
  ⟨_, _, _, rfl, headerRsv_of_opc _, rfl, rfl, rfl⟩
theorem LegalFrame.mum (a b : Word) : LegalFrame.Statement (.mum a b) :=
  ⟨_, _, _, rfl, headerRsv_of_opc _, rfl, rfl, rfl⟩
theorem LegalFrame.rand (s : Word) : LegalFrame.Statement (.rand s) :=
  ⟨_, _, _, rfl, headerRsv_of_opc _, rfl, rfl, rfl⟩
theorem LegalFrame.hash (len : Word) : LegalFrame.Statement (.hash len) :=
  ⟨_, _, _, rfl, headerRsv_of_opc _, rfl, rfl, rfl⟩
theorem LegalFrame.hashs (len seed : Word) : LegalFrame.Statement (.hashs len seed) :=
  ⟨_, _, _, rfl, headerRsv_of_opc _, rfl, rfl, rfl⟩
theorem LegalFrame.hashk (len seed : Word) (secret : SecretTable) : LegalFrame.Statement (.hashk len seed secret) :=
  ⟨_, _, _, rfl, headerRsv_of_opc _, rfl, rfl, by simp [Instr.operands]⟩
theorem LegalFrame.minv (n : Word) : LegalFrame.Statement (.minv n) :=
  ⟨_, _, _, rfl, headerRsv_of_opc _, rfl, rfl, rfl⟩
theorem LegalFrame.tomont (x n : Word) : LegalFrame.Statement (.tomont x n) :=
  ⟨_, _, _, rfl, headerRsv_of_opc _, rfl, rfl, rfl⟩
theorem LegalFrame.mone (n : Word) : LegalFrame.Statement (.mone n) :=
  ⟨_, _, _, rfl, headerRsv_of_opc _, rfl, rfl, rfl⟩
theorem LegalFrame.mmul (a b n nInv : Word) : LegalFrame.Statement (.mmul a b n nInv) :=
  ⟨_, _, _, rfl, headerRsv_of_opc _, rfl, rfl, rfl⟩
theorem LegalFrame.mpow (base exp n nInv one : Word) : LegalFrame.Statement (.mpow base exp n nInv one) :=
  ⟨_, _, _, rfl, headerRsv_of_opc _, rfl, rfl, rfl⟩
theorem LegalFrame.sprp (n a nInv one : Word) : LegalFrame.Statement (.sprp n a nInv one) :=
  ⟨_, _, _, rfl, headerRsv_of_opc _, rfl, rfl, rfl⟩
theorem LegalFrame.isprime (n : Word) : LegalFrame.Statement (.isprime n) :=
  ⟨_, _, _, rfl, headerRsv_of_opc _, rfl, rfl, rfl⟩
theorem LegalFrame.mksec (seed : Word) : LegalFrame.Statement (.mksec seed) :=
  ⟨_, _, _, rfl, headerRsv_of_opc _, rfl, rfl, rfl⟩

end Sys2Proof.Laws
end

