-- ==== Sys2Proof/Laws/Step.lean ====
section
/-! SUPPORT. Everything one step can do, said once; and the exact conditions of decoding that the step rests on. -/

namespace Sys2Proof.Machine

/-- What the unit's own step can do: wait, refuse, reject by the decoder's fault, run a command, or examine a candidate. -/
inductive AdvanceOutcome (s : State) : Host.Outcome State Fault Refusal → Prop where
  | waits (idle : s.activity = .idle) : AdvanceOutcome s (.next s)
  | refuses (frame : List Word) (accepted : s.activity = .accepted frame) (faulted : s.status.fault = true) :
      AdvanceOutcome s (.next (s.refuse (frameOpc frame)))
  | rejects (frame : List Word) (f : CommandFault) (accepted : s.activity = .accepted frame)
      (clear : s.status.fault = false) (illegal : decodeFrame frame = .error f) :
      AdvanceOutcome s (.next (s.raiseFault (frameOpc frame) f))
  | runs (frame : List Word) (i : Instr) (accepted : s.activity = .accepted frame) (clear : s.status.fault = false)
      (legal : decodeFrame frame = .ok i) : AdvanceOutcome s (exec i s)
  | searches (g : Generator) (generating : s.activity = .generating g) : AdvanceOutcome s (.next (s.searchOn g))

theorem advance_outcome (s : State) : AdvanceOutcome s (advance s) := by
  unfold advance
  cases ha : s.activity with
  | idle => exact .waits ha
  | generating g => exact .searches g ha
  | accepted frame =>
    dsimp only [runFrame]
    by_cases hf : s.status.fault = true
    · rw [if_pos hf]; exact .refuses frame ha hf
    · rw [if_neg hf]
      have clear : s.status.fault = false := by simpa using hf
      cases hd : decodeFrame frame with
      | error f => exact .rejects frame f ha clear hd
      | ok i => exact .runs frame i ha clear hd

@[simp] theorem State.withHost_self (s : State) : s.withHost s.host = s := rfl

/-- What a step can do, by the host's next act: the unit's own step (no act, a wait, or an offer held off), or the act's effect. -/
inductive StepOutcome (s : State) : Host.Outcome State Fault Refusal → Prop where
  | advances (rest : List HostInput) (next : s.host = rest ∨ s.host = .wait :: rest) :
      StepOutcome s (advance (s.withHost rest))
  | accepts (frame : List Word) (ext : Nat) (rest : List HostInput) (next : s.host = .offer frame ext :: rest)
      (ready : s.status.busy = false) : StepOutcome s (.next ((s.accept frame ext).withHost rest))
  | writes (off : Word) (b : Byte) (rest : List HostInput) (next : s.host = .write off b :: rest) :
      StepOutcome s (.next ((s.hostWrite off b).withHost rest))
  | resets (rest : List HostInput) (next : s.host = .reset :: rest) :
      StepOutcome s (.next (s.afterReset.withHost rest))

theorem step_outcome (s : State) : StepOutcome s (step s) := by
  unfold step turn
  split
  next h => exact .advances s.host (.inl rfl)
  next rest h => exact .advances rest (.inr h)
  next off b rest h => exact .writes off b rest h
  next rest h => exact .resets rest h
  next frame ext rest h =>
    by_cases hb : s.status.busy = true
    · rw [if_pos hb]; exact .advances s.host (.inl rfl)
    · rw [if_neg hb]; exact .accepts frame ext rest h (by simpa using hb)

end Sys2Proof.Machine
end

