-- ==== Sys2Proof/Tests/Slice0.lean ====
section
/-! SUPPORT. The model's own tests: expected results come from 95_test_vectors.md, 44_secretgen.md R250 and the encodings of
30_encoding.md, never from the model. Each test of the machine is one step. -/

namespace Sys2Proof.Tests

set_option Elab.async false

open Sys2Proof.Machine

/-- The message space holding these bytes from offset 0. -/
def cells (bytes : List Byte) : Memory :=
  ((List.range bytes.length).zip bytes).filter (fun c => c.2 != unlistedByte)

/-- A unit under T1, as after reset, with this message and its extent presented. -/
def unit (bytes : List Byte) : State :=
  { State.reset with params := Config.t1, msg := cells bytes, ext := bytes.length }

/-- What the host has received after an outcome, and what it reads from `STATUS`. -/
def seen : Host.Outcome State Fault Refusal → Option (List (List Word) × Word)
  | .next t => some (t.rspq, t.status.word)
  | _ => none

/-- One step of a unit holding this message, on this accepted descriptor. -/
def runOn (bytes : List Byte) (frame : List Word) : Option (List (List Word) × Word) :=
  seen (step ((unit bytes).withAccepted frame))

/-- The message `M[i] = (7i + 3) mod 256` of 95_test_vectors.md section 2.3. -/
def ramp (len : Nat) : List Byte := (List.range len).map (fun i => BitVec.ofNat 8 (7 * i + 3))

/-! Decoding: words written out from R82 to R84, one command of each family and every operation code. -/

theorem test_decode_mixer :
    decodeFrame [0x01, 0x3, 0x5] = .ok (.mul128 3 5) ∧ decodeFrame [0x02, 0x3, 0x5] = .ok (.mix 3 5) ∧
    decodeFrame [0x03, 0x3, 0x5] = .ok (.mum 3 5) ∧ decodeFrame [0x08, 0x7] = .ok (.rand 7) := by decide +kernel

theorem test_decode_hash :
    decodeFrame [0x10, 0x3] = .ok (.hash 3) ∧ decodeFrame [0x11, 0x3, 0x1234] = .ok (.hashs 3 0x1234) ∧
    decodeFrame [0x12, 0x3, 0x5, 10, 11, 12, 13, 14, 15, 16, 17, 18] =
      .ok (.hashk 3 5 #v[10, 11, 12, 13, 14, 15, 16, 17, 18]) := by decide +kernel

theorem test_decode_montgomery :
    decodeFrame [0x20, 0x65] = .ok (.minv 101) ∧ decodeFrame [0x21, 0x2, 0x65] = .ok (.tomont 2 101) ∧
    decodeFrame [0x22, 0x65] = .ok (.mone 101) ∧ decodeFrame [0x23, 1, 2, 3, 4] = .ok (.mmul 1 2 3 4) ∧
    decodeFrame [0x24, 1, 2, 3, 4, 5] = .ok (.mpow 1 2 3 4 5) ∧ decodeFrame [0x25, 1, 2, 3, 4] = .ok (.sprp 1 2 3 4) ∧
    decodeFrame [0x26, 0xBFA17DC7] = .ok (.isprime 3215031751) := by decide +kernel

theorem test_decode_secretgen : decodeFrame [0x30, 0x9] = .ok (.mksec 9) := by decide +kernel

theorem test_decode_rejects :
    decodeFrame [] = .error .frameFault ∧ decodeFrame [0x00] = .error .illegalCommand ∧
    decodeFrame [0x31, 0] = .error .illegalCommand ∧ decodeFrame [0x102] = .error .illegalCommand ∧
    decodeFrame [0x8000000000000002, 3, 5] = .error .illegalCommand ∧ decodeFrame [0x02, 3] = .error .frameFault ∧
    decodeFrame [0x12, 0, 0, 1, 1, 1, 1, 1, 1, 1, 1] = .error .frameFault := by decide +kernel

theorem test_table_word :
    decodeTableWord 64 0x02 = some (.mix 0 0) ∧ decodeTableWord 64 0x04 = none ∧
    decodeTableWord 192 (0x02 + 3 * 2 ^ 64 + 5 * 2 ^ 128) = some (.mix 3 5) := by decide +kernel

/-! Well-formedness of a parameter record: one ill-formed record for each check of R10 and R27. -/

theorem test_wellformed_refuses_even_word :
    SecretTable.allOdd (Config.t1.secretDefault.set 0 0x39D43C5C4E3A724C) = false := by decide +kernel

theorem test_wellformed_refuses_popcount :
    SecretTable.allPopcount32 (Config.t1.secretDefault.set 0 1) = false := by decide +kernel

theorem test_wellformed_refuses_distance :
    SecretTable.allDistance32 (Config.t1.secretDefault.set 0 0x6596E14753CCA38B) = false := by decide +kernel

theorem test_wellformed_refuses_composite : ¬ SecretTable.AllPrime (Config.t1.secretDefault.set 0 9) := by
  intro h
  exact absurd (show Nat.Prime 9 from h 9 (by decide +kernel)) (by norm_num)

theorem test_wellformed_refuses_seeds : Params.seedsInTable { Config.t1 with seedWhiten := 1 } = false := by decide +kernel

theorem test_wellformed_refuses_candidates :
    Params.candOk { Config.t1 with cand := [] } = false ∧ Params.candOk { Config.t1 with cand := [0x0F, 0x07] } = false := by
  decide +kernel

theorem test_wellformed_refuses_retry_zero : Params.retryOk { Config.t1 with retryLimit := some 0 } = false := by decide +kernel

theorem test_wellformed_refuses_extent : extentOk (2 ^ 64 + 1) = false := by decide +kernel

/-! The mixer and the PRNG (95_test_vectors.md sections 2.1, 2.2, 2.7). -/

theorem test_mul128_max : runOn [] [0x01, 0xFFFFFFFFFFFFFFFF, 0xFFFFFFFFFFFFFFFF] =
    some ([[0x01, 0x1, 0xFFFFFFFFFFFFFFFE]], 0) := by decide +kernel

theorem test_mul128_general : runOn [] [0x01, 0x0123456789ABCDEF, 0xFEDCBA9876543210] =
    some ([[0x01, 0x2236D88FE5618CF0, 0x0121FA00AD77D742]], 0) := by decide +kernel

theorem test_mix_general : runOn [] [0x02, 0x0123456789ABCDEF, 0xFEDCBA9876543210] =
    some ([[0x02, 0x2317228F48165BB2]], 0) := by decide +kernel

theorem test_mum_order : runOn [] [0x03, 0x3, 0x5555555555555556] = some ([[0x03, 0x3, 0x1]], 0) := by decide +kernel

theorem test_rand_wraps : runOn [] [0x08, 0xFFFFFFFFFFFFFFFF] =
    some ([[0x08, 0x10BA1525E333549E, 0x2D358DCCAA6C78A4]], 0) := by decide +kernel

theorem test_rand_zero_output : runOn [] [0x08, 0xD2CA72335593875B] = some ([[0x08, 0, 0]], 0) := by decide +kernel

/-! The hash engine: every read shape, path and stride (95_test_vectors.md sections 2.3, 2.7). -/

theorem test_hash_short_paths :
    runOn [] [0x10, 0] = some ([[0x10, 0x13073134181A6915]], 0) ∧
    runOn (ramp 2) [0x10, 2] = some ([[0x10, 0xDD1B683C223FA4F0]], 0) ∧
    runOn (ramp 7) [0x10, 7] = some ([[0x10, 0x3BCD75C5B0D3A117]], 0) ∧
    runOn (ramp 15) [0x10, 15] = some ([[0x10, 0x3A0EE1335E08832B]], 0) := by decide +kernel

theorem test_hash_medium_and_bulk :
    runOn (ramp 113) [0x10, 113] = some ([[0x10, 0xEDB85186DCB4C8F6]], 0) ∧
    runOn (ramp 257) [0x10, 257] = some ([[0x10, 0xC8B6099565CEF9E0]], 0) := by decide +kernel

theorem test_hashs_seed : runOn [0x61, 0x62, 0x63] [0x11, 3, 0x1234] = some ([[0x11, 0xA520BF6825E40DDD]], 0) := by
  decide +kernel

theorem test_hash_reads_only_len : runOn [0x61, 0x62, 0x63] [0x10, 2] = some ([[0x10, 0x99704506674B75D0]], 0) := by
  decide +kernel

theorem test_hashk_zero_table : runOn [0x61, 0x62, 0x63] [0x12, 3, 5, 0, 0, 0, 0, 0, 0, 0, 0, 0] =
    some ([[0x12, 0x0B69879A]], 0) := by decide +kernel

theorem test_hashk_bulk_lanes : runOn ((List.range 129).map (BitVec.ofNat 8)) ([0x12, 129, 0] ++ Config.t1.secretDefault.toList) =
    some ([[0x12, 0xC52DAC83FA659F2A]], 0) := by decide +kernel

/-! The Montgomery engine (95_test_vectors.md sections 2.4, 2.5, 2.8). -/

theorem test_minv : runOn [] [0x20, 101] = some ([[0x20, 0x3A4C0A237C32B16D]], 0) ∧
    runOn [] [0x20, 100] = some ([[0x0420]], 0x0402) := by decide +kernel

theorem test_tomont : runOn [] [0x21, 106, 101] = some ([[0x21, 0x5C]], 0) ∧
    runOn [] [0x21, 5, 100] = some ([[0x0421]], 0x0402) := by decide +kernel

theorem test_mone : runOn [] [0x22, 0x8000000000000001] = some ([[0x22, 0x7FFFFFFFFFFFFFFF]], 0) ∧
    runOn [] [0x22, 0] = some ([[0x0422]], 0x0402) := by decide +kernel

theorem test_mmul : runOn [] [0x23, 5, 7, 101, 0x3A4C0A237C32B16D] = some ([[0x23, 3]], 0) ∧
    runOn [] [0x23, 0xFFFFFFFFFFFFFFC4, 0xFFFFFFFFFFFFFFC4, 0xFFFFFFFFFFFFFFC5, 0x34115B1E5F75270D] =
      some ([[0x23, 0xCBEEA4E1A08AD8C4]], 0) := by decide +kernel

theorem test_mmul_domain : runOn [] [0x23, 0x65, 1, 0x65, 0x3A4C0A237C32B16D] = some ([[0x0423]], 0x0402) ∧
    runOn [] [0x23, 5, 7, 0x65, 0x3A4C0A237C32B16E] = some ([[0x0423]], 0x0402) ∧
    runOn [] [0x23, 0, 0, 1, 1] = some ([[0x23, 0]], 0) := by decide +kernel

theorem test_mpow : runOn [] [0x24, 0x39, 25, 101, 0x3A4C0A237C32B16D, 0x4F] = some ([[0x24, 0x53]], 0) ∧
    runOn [] [0x24, 0xB1, 0xFFFFFFFFFFFFFFFF, 0xFFFFFFFFFFFFFFC5, 0x34115B1E5F75270D, 0x3B] =
      some ([[0x24, 0x3AEC94FB749E464A]], 0) := by decide +kernel

theorem test_mpow_domain : runOn [] [0x24, 0x39, 25, 101, 0x3A4C0A237C32B16D, 0x50] = some ([[0x0424]], 0x0402) ∧
    runOn [] [0x24, 0x65, 25, 101, 0x3A4C0A237C32B16D, 0x4F] = some ([[0x0424]], 0x0402) := by decide +kernel

theorem test_sprp : runOn [] [0x25, 3215031751, 7, 0xF45122604BD733F7, 0x6C7C1E3D] = some ([[0x25, 1]], 0) ∧
    runOn [] [0x25, 3215031751, 11, 0xF45122604BD733F7, 0x6C7C1E3D] = some ([[0x25, 0]], 0) ∧
    runOn [] [0x25, 101, 103, 0x3A4C0A237C32B16D, 0x4F] = some ([[0x25, 1]], 0) := by decide +kernel

theorem test_sprp_domain : runOn [] [0x25, 1, 2, 1, 0] = some ([[0x0425]], 0x0402) ∧
    runOn [] [0x25, 0x64, 2, 1, 0] = some ([[0x0425]], 0x0402) := by decide +kernel

theorem test_isprime_true : [2, 7, 11, 2053, 4294967291, 0xFFFFFFFFFFFFFFC5].all isPrime = true := by decide +kernel

theorem test_isprime_false : [0, 1, 4, 9, 49, 121, 2047, 3215031751, 3215031753, 0xFFFFFFFFFFFFFFFF].all (fun n => !isPrime n) =
    true := by decide +kernel

/-! The secret generator: rows of R250's trace. -/

/-- One step of a search in progress. -/
def searchedFrom (g : Generator) (p : Params) : Option State :=
  match step ({ unit [] with params := p, status := { busy := true, fault := false, ecode := 0 } }.generate g) with
  | .next t => some t
  | _ => none

theorem test_mksec_accepts_candidate_8 :
    (searchedFrom ⟨0xE3B704C547BA6418, [], 0⟩ Config.t1).map (fun t => t.activity) =
      some (.generating ⟨0x4D63732A9B1E2940, [0x39D43C5C4E3A724B], 0⟩) := by decide +kernel

theorem test_mksec_rejects_distance_36 :
    (searchedFrom ⟨0xB70FE18FEE81EE68, [0x39D43C5C4E3A724B], 0⟩ { Config.t1 with retryLimit := some 3 }).map
        (fun t => (t.activity, t.status.busy)) =
      some (.generating ⟨0x20BC4FF541E5B390, [0x39D43C5C4E3A724B], 1⟩, true) := by decide +kernel

theorem test_mksec_gen_fail :
    (searchedFrom ⟨0, [], 6⟩ { Config.t1 with retryLimit := some 6 }).map (fun t => (t.rspq, t.status.word)) =
      some ([[0x0530]], 0x0502) := by decide +kernel

/-! Decode faults, refusal, reset (95_test_vectors.md section 2.8, program 4). -/

theorem test_fault_responses :
    runOn [] [0x04, 1, 2] = some ([[0x0104]], 0x0102) ∧ runOn [] [] = some ([[0x0200]], 0x0202) ∧
    runOn [] [0x02, 3, 5, 7] = some ([[0x0202]], 0x0202) ∧
    runOn [0x61, 0x62, 0x63] [0x10, 4] = some ([[0x0310]], 0x0302) := by decide +kernel

/-- A unit that has taken `SpanFault`. -/
def faulted : State := { unit [] with status := { busy := false, fault := true, ecode := 0x03 } }

theorem test_refused_after_fault :
    seen (step (faulted.withAccepted [0x02, 3, 5])) = some ([[0x0F02]], 0x0302) ∧
    seen (step (faulted.withAccepted [0x7F])) = some ([[0x0F7F]], 0x0302) := by decide +kernel

theorem test_reset_clears_fault :
    seen (step (faulted.withHost [.reset])) = some ([], 0) := by decide +kernel

/-! The host's interface: the first instruction after reset. -/

theorem test_first_step_runs_decoded_mix :
    step (State.reset.withFetchWord 64 0x02) = exec (.mix 0 0) (State.reset.withAccepted [0x02, 0, 0]) := rfl

end Sys2Proof.Tests
end

