-- ==== Sys2Proof/Tests/Witnesses.lean ====
section
/-! SUPPORT. For every statement that has hypotheses, concrete states and operands that meet all of them together: one named
theorem a statement, one conjunct a clause, at the boundary of the clause's range where it has one. -/

namespace Sys2Proof.Tests

set_option Elab.async false

open Sys2Proof.Machine Sys2Proof.Spec

/-- A unit under T1 as after reset, nothing presented, with this `STATUS.FAULT` (code `SpanFault`) and this activity. -/
def unitDoing (fault : Bool) (a : Activity) : State :=
  { unit [] with status := ⟨decide (a ≠ .idle), fault, if fault then 0x03 else 0⟩, activity := a }

/-- The words of T1's table that a search has accepted before the ninth (R250). -/
def eightWords : List Word := Config.t1.secretDefault.toList.take 8

/-- A search that has eight words and whose next candidate is T1's ninth (R250). -/
def lastSearch : State := unitDoing false (.generating ⟨0x0A0026DA22FEEB48 - 8 * Config.t1.prngK0, eightWords, 0⟩)

theorem unitDoing_inv (fault : Bool) (a : Activity)
    (h : ∀ g, a = .generating g → fault = false ∧ GeneratorOk Config.t1 g) : (unitDoing fault a).Inv where
  params := Config.t1_valid
  memory := by
    show Memory.wf (unit []).msg = true
    decide +kernel
  busy := by simp [unitDoing]
  status := by
    cases fault <;> simp [unitDoing, Status.legal]
    exact ⟨.spanFault, rfl⟩
  stale := fun _ => rfl
  generating := h
  responses := nofun

theorem eightWords_ok : WordsOk eightWords := by
  have h : eightWords.all (fun w => w.getLsbD 0 && popcount w == 32 && isPrime w) = true := by decide +kernel
  simp only [List.all_eq_true, Bool.and_eq_true, beq_iff_eq] at h
  exact ⟨fun w hw => (h w hw).1.1, fun w hw => (h w hw).1.2, fun w hw => (h w hw).2, by decide +kernel⟩

theorem lastSearch_inv : lastSearch.Inv := by
  refine unitDoing_inv _ _ fun g hg => ⟨rfl, ?_⟩
  cases hg
  exact { idx := by decide +kernel, words := eightWords_ok, unlimited := fun _ => rfl, limited := nofun }

/-- What the ninth acceptance leaves. -/
def lastSearched : State := answered lastSearch 0x30 Config.t1.secretDefault.toList

theorem step_lastSearch : step lastSearch = .next lastSearched := by
  have h : searchStep lastSearch.params ⟨0x0A0026DA22FEEB48 - 8 * Config.t1.prngK0, eightWords, 0⟩ =
    .table Config.t1.secretDefault.toList := by decide +kernel
  show Host.Outcome.next (State.searchOn lastSearch _) = _
  rw [State.searchOn, h]
  rfl

/-! Encoding and decoding. -/

theorem witness_EncodeOfDecode : decodeFrame [0x02, 3, 5] = .ok (.mix 3 5) := by decide +kernel

/-- The clauses in their order: refused empty, refused, empty, illegal (`RSV` not 0, operation code not in R83), wrong count
(one short, one long), run. -/
theorem witness_DescriptorExaminedInOrder :
    (unitDoing true (.accepted [])).status.fault = true ∧ (unitDoing true (.accepted [0x7F])).status.fault = true ∧
    (unitDoing false (.accepted [])).status.fault = false ∧ (unitDoing false (.accepted [0x04])).status.fault = false ∧
    (unitDoing false (.accepted [0x04])).activity = .accepted [0x04] ∧ (unitDoing false (.accepted [0x04])).host = [] ∧
    (∀ row ∈ opcodeMap, (0x04 : Word) ≠ row.1) ∧ (∀ row ∈ opcodeMap, (0x102 : Word) ≠ row.1) ∧
    ((0x02 : Word), 2) ∈ opcodeMap ∧ [(3 : Word)].length ≠ 2 ∧ [(3 : Word), 5, 7].length ≠ 2 ∧ [(3 : Word), 5].length = 2 := by
  decide +kernel

/-! The step. -/

theorem witness_StepRunsDecodedCommand :
    (unitDoing false (.accepted [0x02, 3, 5])).activity = .accepted [0x02, 3, 5] ∧
    (unitDoing false (.accepted [0x02, 3, 5])).status.fault = false ∧ decodeFrame [0x02, 3, 5] = .ok (.mix 3 5) ∧
    (unitDoing false (.accepted [0x02, 3, 5])).host = [] ∧
    ((unitDoing false (.accepted [0x02, 3, 5])).withHost [.wait]).host = .wait :: [] ∧
    ((unitDoing false (.accepted [0x02, 3, 5])).withHost [.offer [0x08, 0] 0]).host = .offer [0x08, 0] 0 :: [] ∧
    ((unitDoing false (.accepted [0x02, 3, 5])).withHost [.offer [0x08, 0] 0]).status.busy = true := by decide +kernel

theorem witness_IdleUnitWaits : (unit []).activity = .idle ∧ (unit []).host = [] := by decide +kernel

theorem witness_OfferAcceptedWhenIdle :
    ((unit []).withHost [.offer [0x08, 0] 0]).status.busy = false ∧
    ((unit []).withHost [.offer [0x08, 0] 0]).host = .offer [0x08, 0] 0 :: [] := by decide +kernel

theorem witness_OfferHeldOffWhileBusy :
    (lastSearch.withHost [.offer [0x08, 0] 0]).status.busy = true ∧
    (lastSearch.withHost [.offer [0x08, 0] 0]).host = .offer [0x08, 0] 0 :: [] ∧
    step { lastSearch.withHost [.offer [0x08, 0] 0] with host := [] } = .next lastSearched :=
  ⟨rfl, rfl, step_lastSearch⟩

theorem witness_ResetAtAnyTime : (lastSearch.withHost [.reset]).host = .reset :: [] := rfl

theorem witness_FaultLatchedUntilReset :
    step (unitDoing true (.accepted [0x7F])) = .next ((unitDoing true (.accepted [0x7F])).refuse 0x7F) ∧
    (unitDoing true (.accepted [0x7F])).status.fault = true ∧
    (∀ rest, (unitDoing true (.accepted [0x7F])).host ≠ .reset :: rest) := ⟨rfl, rfl, nofun⟩

theorem witness_FirstFaultReportedTwice :
    step (unitDoing false (.accepted [0x20, 100])) = .next ((unitDoing false (.accepted [0x20, 100])).raiseFault 0x20 .domainFault) ∧
    (unitDoing false (.accepted [0x20, 100])).status.fault = false ∧
    ((unitDoing false (.accepted [0x20, 100])).raiseFault 0x20 .domainFault).status.fault = true := ⟨rfl, rfl, rfl⟩

/-- An idle unit that waits, a search that goes on with its response yet to come, and the step that delivers. -/
theorem witness_ResponseExactlyWhenBusyFalls :
    (unitDoing false .idle).Inv ∧ step (unitDoing false .idle) = .next (unitDoing false .idle) ∧
    (∀ rest, (unitDoing false .idle).host ≠ .reset :: rest) ∧
    (unitDoing false (.accepted [0x30, 9])).Inv ∧
    step (unitDoing false (.accepted [0x30, 9])) = .next (unitDoing false (.generating ⟨9, [], 0⟩)) ∧
    lastSearch.Inv ∧ step lastSearch = .next lastSearched ∧ (∀ rest, lastSearch.host ≠ .reset :: rest) :=
  ⟨unitDoing_inv _ _ nofun, rfl, nofun, unitDoing_inv _ _ nofun, rfl, lastSearch_inv, step_lastSearch, nofun⟩

theorem witness_StepKeepsInvariant : lastSearch.Inv ∧ step lastSearch = .next lastSearched := ⟨lastSearch_inv, step_lastSearch⟩

theorem witness_UnitWritesNoMemory :
    step lastSearch = .next lastSearched ∧ (∀ off b rest, lastSearch.host ≠ .write off b :: rest) := ⟨step_lastSearch, nofun⟩

theorem witness_HostWriteChangesOneByte :
    (unit [1, 2]).msg.wf = true ∧ ((unit [1, 2]).withHost [.write 1 7]).host = .write 1 7 :: [] ∧
    ((unit [1, 2]).withHost [.write 1 7]).status.busy = false ∧
    ((unitDoing false (.accepted [0x10, 2])).withHost [.write 0xFFFFFFFFFFFFFFFF 7]).host = .write 0xFFFFFFFFFFFFFFFF 7 :: [] ∧
    ((unitDoing false (.accepted [0x10, 2])).withHost [.write 0xFFFFFFFFFFFFFFFF 7]).msg.wf = true ∧
    ((unitDoing false (.accepted [0x10, 2])).withHost [.write 0xFFFFFFFFFFFFFFFF 7]).status.busy = true := by decide +kernel

/-- A command that completes, one that draws, one that faults. -/
theorem witness_CommandFrame :
    exec (.mix 3 5) (unit []) = .next ((unit []).deliver 0x02 [mix 3 5]) ∧
    exec (.minv 100) (unit []) = .next ((unit []).raiseFault 0x20 .domainFault) ∧
    (∃ t, exec (.hash 0) (unit []) = .next t) := ⟨rfl, rfl, _, rfl⟩

theorem witness_NoHiddenState :
    (unit []).params = (unitDoing true .idle).params ∧ (unit []).msg = (unitDoing true .idle).msg ∧
    (unit []).ext = (unitDoing true .idle).ext ∧ (unit []).stale = [] ∧ (unitDoing true .idle).stale = [] :=
  ⟨rfl, rfl, rfl, rfl, rfl⟩

/-! The mixer and the PRNG. -/

theorem witness_MixerLaws :
    (1 : Nat) ≤ 63 ∧ (63 : Nat) ≤ 63 ∧ (0xFFFFFFFF : Word).toNat * (0x100000001 : Word).toNat < 2 ^ 64 := by decide +kernel

theorem witness_RandCommandCompletes :
    (0xD2CA72335593875B : Word) + (unit []).params.prngK0 = 0 ∧
    (0x5E82BDC6EBC23424 : Word) + (unit []).params.prngK0 = (unit []).params.prngK1 := by decide +kernel

/-! The message and the hash engine. -/

theorem witness_MemReadIsLittleEndian :
    (unit (ramp 9)).stale = [] ∧ (1 : Word).toNat + 8 ≤ (9 : Word).toNat ∧ (7 : Nat) < 8 ∧ (9 : Word).toNat < (2 : Word).toNat + 8 := by
  decide +kernel

theorem witness_MixedWidthReadsAgree : (1 : Word).toNat + 8 ≤ (9 : Word).toNat := by decide +kernel

/-- Byte 3 changed under the command, byte 4 not. -/
theorem witness_ChangedByteReadsOldOrNew :
    let s := (unitDoing false (.accepted [0x10, 9])).hostWrite 3 7
    (3, 0) ∈ s.stale ∧ (∀ c ∈ s.stale, c.1 ≠ 4) ∧ s.msg.read 3 = 7 := by decide +kernel

theorem witness_LaneLoopCount : 128 < (129 : Word).toNat ∧ 128 < (0xFFFFFFFFFFFFFFFF : Word).toNat := by decide +kernel

theorem witness_HashCommandsComputeDigest :
    (0 : Word).toNat ≤ (unit []).ext ∧ (257 : Word).toNat ≤ (unit (ramp 257)).ext := by decide +kernel

theorem witness_SpanFaultBeyondExtent :
    (unit []).ext < (1 : Word).toNat ∧ (unit (ramp 257)).ext < (258 : Word).toNat := by decide +kernel

theorem witness_HashEntryPointsAgree : (3 : Word).toNat ≤ (unit (ramp 3)).ext := by decide +kernel

theorem witness_DigestDependsOnMessageAlone :
    (unit [1, 2, 3]).params = (unit [1, 2, 4]).params ∧ (unit [1, 2, 3]).stale = [] ∧ (unit [1, 2, 4]).stale = [] ∧
    (2 : Word).toNat ≤ (unit [1, 2, 3]).ext ∧ (2 : Word).toNat ≤ (unit [1, 2, 4]).ext ∧
    (∀ off, off < (2 : Word).toNat → (unit [1, 2, 3]).msg.read off = (unit [1, 2, 4]).msg.read off) := by decide +kernel

/-! The Montgomery engine. -/

theorem witness_MinvDeliversTheInverse :
    (1 : Word).toNat % 2 = 1 ∧ (0xFFFFFFFFFFFFFFFF : Word).toNat % 2 = 1 ∧ (0 : Word).toNat % 2 = 0 ∧
    (101 : Word).toNat * (0x3A4C0A237C32B16D : Word).toNat % 2 ^ 64 = 1 := by decide +kernel

theorem witness_TomontDeliversMontgomeryForm : (1 : Word).toNat % 2 = 1 ∧ (0 : Word).toNat % 2 = 0 := by decide +kernel

theorem witness_MoneDeliversOne :
    (1 : Word).toNat % 2 = 1 ∧ (0x8000000000000001 : Word).toNat % 2 = 1 ∧ 2 ^ 63 < (0x8000000000000001 : Word).toNat ∧
    3 ≤ (3 : Word).toNat ∧ (3 : Word).toNat % 2 = 1 ∧ (0 : Word).toNat % 2 = 0 := by decide +kernel

theorem witness_MmulDeliversMontgomeryProduct :
    (101 : Word).toNat % 2 = 1 ∧ (101 : Word).toNat * (0x3A4C0A237C32B16D : Word).toNat % 2 ^ 64 = 1 ∧
    (0x4F : Word).toNat < (101 : Word).toNat ∧ (100 : Word).toNat < (101 : Word).toNat ∧
    (0x4F : Word).toNat = 2 ^ 64 % (101 : Word).toNat ∧ (101 : Word).toNat ≤ (101 : Word).toNat := by decide +kernel

theorem witness_MpowDeliversThePower :
    (101 : Word).toNat % 2 = 1 ∧ (101 : Word).toNat * (0x3A4C0A237C32B16D : Word).toNat % 2 ^ 64 = 1 ∧
    (0x4F : Word).toNat = 2 ^ 64 % (101 : Word).toNat ∧ (0x39 : Word).toNat < (101 : Word).toNat ∧
    (0x39 : Word).toNat = 2 * 2 ^ 64 % (101 : Word).toNat ∧ (0x50 : Word).toNat ≠ 2 ^ 64 % (101 : Word).toNat := by
  decide +kernel

/-- With `n = 101`, `n - 1 = 25 · 2^2`; the least `n` is 3. -/
theorem witness_SprpDecidesStrongProbablePrime :
    (101 : Word).toNat % 2 = 1 ∧ 3 ≤ (101 : Word).toNat ∧ (101 : Word).toNat * (0x3A4C0A237C32B16D : Word).toNat % 2 ^ 64 = 1 ∧
    (0x4F : Word).toNat = 2 ^ 64 % (101 : Word).toNat ∧ (101 : Word).toNat - 1 = 25 * 2 ^ 2 ∧ 25 % 2 = 1 ∧
    (3 : Word).toNat * (0xAAAAAAAAAAAAAAAB : Word).toNat % 2 ^ 64 = 1 ∧ (1 : Word).toNat = 2 ^ 64 % (3 : Word).toNat ∧
    (1 : Word).toNat < 3 := by decide +kernel

theorem witness_IsprimeAcceptsEveryPrime : Nat.Prime (2 : Word).toNat ∧ Nat.Prime (2053 : Word).toNat := by
  constructor <;> simp only [BitVec.reduceToNat] <;> norm_num

/-- 0, 2046, the pseudoprime and the even words: each clause at a value of its own. -/
theorem witness_IsprimeRejectsSmallComposites :
    (¬ Nat.Prime (0 : Word).toNat ∧ (0 : Word).toNat < 2047) ∧ (¬ Nat.Prime (2046 : Word).toNat ∧ (2046 : Word).toNat < 2047) ∧
    (¬ Nat.Prime (3215031751 : Word).toNat ∧ (3215031751 : Word).toNat = 3215031751) ∧
    (¬ Nat.Prime (2048 : Word).toNat ∧ 2 ∣ (2048 : Word).toNat) ∧ (¬ Nat.Prime (2049 : Word).toNat ∧ 3 ∣ (2049 : Word).toNat) ∧
    (¬ Nat.Prime (2055 : Word).toNat ∧ 5 ∣ (2055 : Word).toNat) ∧ (¬ Nat.Prime (2051 : Word).toNat ∧ 7 ∣ (2051 : Word).toNat) := by
  refine ⟨⟨?_, ?_⟩, ⟨?_, ?_⟩, ⟨?_, ?_⟩, ⟨?_, ?_⟩, ⟨?_, ?_⟩, ⟨?_, ?_⟩, ?_, ?_⟩ <;>
    simp only [BitVec.reduceToNat] <;> norm_num

theorem witness_DomainFaultOutsideTheDomain :
    (0 : Word).toNat % 2 = 0 ∧ (101 : Word).toNat ≤ (101 : Word).toNat ∧ (2 : Word).toNat < 3 ∧ (103 : Word) ≠ 101 ∧
    exec (.minv 101) (unit []) = .next (answered (unit []) 0x20 [0x3A4C0A237C32B16D]) ∧
    2 ^ 64 % (103 : Word).toNat ≠ 2 ^ 64 % (101 : Word).toNat ∧
    exec (.mone 101) (unit []) = .next (answered (unit []) 0x22 [0x4F]) :=
  ⟨rfl, by decide, by decide, by decide, rfl, by decide, rfl⟩

/-- The least word of the statement, the last below 2047 and the first from 2047 on. -/
theorem witness_IsprimeAppliesTheWitnessSet :
    (11 ≤ (11 : Word).toNat ∧ Nat.Coprime (11 : Word).toNat 210 ∧ (11 : Word).toNat ≠ 3215031751) ∧
    ((2041 : Word).toNat < 2047 ∧ Nat.Coprime (2041 : Word).toNat 210 ∧ (2041 : Word).toNat ≠ 3215031751) ∧
    (2047 ≤ (2047 : Word).toNat ∧ Nat.Coprime (2047 : Word).toNat 210 ∧ (2047 : Word).toNat ≠ 3215031751) := by
  decide +kernel

/-! The secret generator. -/

theorem witness_CandidateAssembledFromDraws : Config.t1.candOk = true ∧ (7 : Nat) < 8 := by decide +kernel

/-- A search with these registers under these parameters. -/
def searching (p : Params) (g : Generator) : State := { unitDoing false (.generating g) with params := p }

/-- What the statement asks of every state. -/
def Searches (s : State) (g : Generator) : Prop := s.activity = .generating g ∧ s.host = []

/-- Accepted and more to come, accepted ninth, rejected without a ceiling, rejected at the ceiling and beyond it. -/
theorem witness_SearchExaminesOneCandidate :
    let ceiling : Params := { Config.t1 with retryLimit := some 6 }
    (∀ p g, Searches (searching p g) g) ∧
    (Good [] (candidate Config.t1 0xE3B704C547BA6418).1 ∧ ([] : List Word).length + 1 < 9) ∧
    (Good eightWords (candidate Config.t1 (0x0A0026DA22FEEB48 - 8 * Config.t1.prngK0)).1 ∧ 9 ≤ eightWords.length + 1) ∧
    (¬ Good [] (candidate Config.t1 0).1 ∧ Config.t1.retryLimit = none) ∧
    (¬ Good [] (candidate ceiling 0).1 ∧ ceiling.retryLimit = some 6 ∧ 5 + 1 ≤ 6 ∧ 6 < 6 + 1) :=
  ⟨fun _ _ => ⟨rfl, rfl⟩, by decide +kernel⟩

/-- A parameter record whose candidates are T1's words from the first on: the state counts 1, 2, 3, …, a draw from state `k` is
`k * k`, and entry `k * k mod 149` of `CAND` is byte `k` of the table. -/
def counting : Params :=
  { Config.t1 with
    prngK0 := 1
    prngK1 := 0
    cand := (List.range 149).map (fun j =>
      ((List.range 72).filter (fun k => (k + 1) * (k + 1) % 149 == j)).foldr
        (fun k _ => (Config.t1.secretDefault.toList.getD (k / 8) 0).extractLsb' (8 * (k % 8)) 8) 0x0F) }

theorem counting_candidates :
    (List.range 9).map (nthCandidate counting 0) = Config.t1.secretDefault.toList := by decide +kernel

theorem counting_good : ∀ j, j < 9 →
    Good (Config.t1.secretDefault.toList.take j) (Config.t1.secretDefault.toList.getD j 0) := by decide +kernel

theorem counting_accepted : ∀ j, j ≤ 9 → acceptedAmong counting 0 j = Config.t1.secretDefault.toList.take j
  | 0, _ => rfl
  | j + 1, h => by
    have word : nthCandidate counting 0 j = Config.t1.secretDefault.toList.getD j 0 := by
      rw [← counting_candidates]
      simp [List.getD_eq_getElem?_getD, show j < 9 by omega]
    have len : j < Config.t1.secretDefault.toList.length := by simp; omega
    simp only [acceptedAmong, counting_accepted j (by omega), word]
    rw [if_pos (counting_good j (by omega)), List.take_succ_eq_append_getElem len, List.getD_eq_getElem _ _ len]

/-- `k = 0`, and `k = 8` with the ninth word to come. -/
theorem witness_MksecRunDeliversAcceptedWords :
    let s := { unitDoing false (.accepted [0x30, 0]) with params := counting }
    s.activity = .accepted [0x30, 0] ∧ s.host = [] ∧ s.status.fault = false ∧ s.params.retryLimit = none ∧
    (acceptedAmong s.params 0 0).length < 9 ∧ (acceptedAmong s.params 0 8).length < 9 ∧
    (acceptedAmong s.params 0 9).length = 9 :=
  ⟨rfl, rfl, rfl, rfl, by decide, by rw [show (_ : State).params = counting from rfl, counting_accepted 8 (by decide)]; decide +kernel,
   by rw [show (_ : State).params = counting from rfl, counting_accepted 9 (by decide)]; decide +kernel⟩

theorem witness_DeliveredTableIsAcceptable :
    lastSearch.Inv ∧ step lastSearch = .next lastSearched ∧
    lastSearched.rspq = lastSearch.rspq ++ [0x30 :: Config.t1.secretDefault.toList] ∧
    responseEcode 0x30 = 0 ∧ headerOpc 0x30 = 0x30 := ⟨lastSearch_inv, step_lastSearch, rfl, by decide, by decide⟩

end Sys2Proof.Tests
end

section
/-! SUPPORT. Population counts, and the candidate of a secret search: under R10(c) each has population count 32. -/

namespace Sys2Proof.Machine

/-- Words with no common 1 bit: the counts add up. -/
theorem popcount_or_of_disjoint {w : Nat} {x y : BitVec w} (disjoint : ∀ k, x.getLsbD k = true → y.getLsbD k = false) :
    popcount (x ||| y) = popcount x + popcount y := by
  simp only [popcount, BitVec.getLsbD_or]
  induction List.range w with
  | nil => rfl
  | cons k ks ih =>
    simp only [List.countP_cons, ih]
    cases hx : x.getLsbD k with
    | false => simp only [Bool.false_or, Bool.false_eq_true, if_false]; omega
    | true => simp only [disjoint k hx, Bool.or_false, Bool.false_eq_true, if_true, if_false]; omega

/-- A byte moved up inside a word keeps its count. -/
theorem popcount_byte_shiftLeft (b : Byte) {n : Nat} (h : n ≤ 56) :
    popcount (b.setWidth 64 <<< n : Word) = popcount b := by
  have split : List.range 64 =
      List.range n ++ ((List.range 8).map (n + ·) ++ (List.range (56 - n)).map (n + 8 + ·)) := by
    rw [show 64 = n + 8 + (56 - n) by omega, List.range_add, List.range_add, List.append_assoc]
  have below : (List.range n).countP (fun k => (b.setWidth 64 <<< n : Word).getLsbD k) = 0 := by
    rw [List.countP_eq_zero]
    intro k hk
    simp [List.mem_range.1 hk]
  have above : ((List.range (56 - n)).map (n + 8 + ·)).countP (fun k => (b.setWidth 64 <<< n : Word).getLsbD k) = 0 := by
    rw [List.countP_eq_zero]
    intro k hk
    obtain ⟨j, -, rfl⟩ := List.mem_map.1 hk
    have : b.getLsbD (n + 8 + j - n) = false := BitVec.getLsbD_of_ge _ _ (by omega)
    simp [this]
  have inside : ((List.range 8).map (n + ·)).countP (fun k => (b.setWidth 64 <<< n : Word).getLsbD k) = popcount b := by
    rw [List.countP_map, popcount]
    refine List.countP_congr fun k hk => ?_
    have := List.mem_range.1 hk
    simp [show n + k < 64 by omega, show k < 64 by omega]
  rw [popcount, split, List.countP_append, List.countP_append, below, inside, above]
  omega

/-- R10(c): a draw selects a table byte of population count 4. -/
theorem popcount_candByte {p : Params} (h : p.candOk = true) (r : Word) : popcount (candByte p r) = 4 := by
  simp only [Params.candOk, Bool.and_eq_true, Bool.not_eq_true', List.isEmpty_eq_false_iff, List.all_eq_true,
    beq_iff_eq] at h
  obtain ⟨nonempty, four⟩ := h
  have inside : r.toNat % p.cand.length < p.cand.length := Nat.mod_lt _ (List.length_pos_iff.2 nonempty)
  rw [candByte, List.getD_eq_getElem _ _ inside]
  exact four _ (List.getElem_mem inside)

/-- R243: each of the `k` draws that remain adds a byte above the bits drawn so far. -/
theorem popcount_drawBytes {p : Params} (h : p.candOk = true) (k : Nat) (w s : Word) (hk : k ≤ 8)
    (low : ∀ j, 8 * (8 - k) ≤ j → w.getLsbD j = false) :
    popcount (drawBytes p k w s).1 = popcount w + 4 * k := by
  induction k generalizing w s with
  | zero => rfl
  | succ k ih =>
    set byte : Byte := candByte p (rand p s).1
    have disjoint : ∀ j, w.getLsbD j = true → (byte.setWidth 64 <<< (8 * (7 - k)) : Word).getLsbD j = false := by
      intro j hj
      have : j < 8 * (7 - k) := by
        by_contra ge
        rw [low j (by omega)] at hj
        cases hj
      simp [this]
    have low' : ∀ j, 8 * (8 - k) ≤ j →
        (w ||| (byte.setWidth 64 <<< (8 * (7 - k)) : Word)).getLsbD j = false := by
      intro j hj
      have : byte.getLsbD (j - 8 * (7 - k)) = false := BitVec.getLsbD_of_ge _ _ (by omega)
      simp [low j (by omega), this]
    have count : popcount byte = 4 := popcount_candByte h _
    show popcount (drawBytes p k (w ||| (byte.setWidth 64 <<< (8 * (7 - k)))) (rand p s).2).1 = _
    rw [ih _ _ (by omega) low', popcount_or_of_disjoint disjoint, popcount_byte_shiftLeft _ (by omega), count]
    omega

/-- R243 under R10(c): eight bytes of population count 4. -/
theorem popcount_candidate {p : Params} (h : p.candOk = true) (s : Word) : popcount (candidate p s).1 = 32 :=
  popcount_drawBytes h 8 0 s le_rfl (by simp)

theorem hamming_comm (x y : Word) : hamming x y = hamming y x := by
  rw [hamming, hamming, BitVec.xor_comm]

/-- R244 to R246, as propositions. -/
theorem acceptable_iff (out : List Word) (w : Word) :
    acceptable out w = true ↔ w.getLsbD 0 = true ∧ (∀ x ∈ out, hamming w x = 32) ∧ isPrime w = true := by
  simp [acceptable, and_assoc]

theorem WordsOk.nil : WordsOk [] := ⟨nofun, nofun, nofun, .nil⟩

/-- An acceptable word of population count 32 extends the accepted words. -/
theorem WordsOk.append {out : List Word} (h : WordsOk out) {w : Word} (accepted : acceptable out w = true)
    (count : Machine.popcount w = 32) : WordsOk (out ++ [w]) := by
  obtain ⟨odd, distance, prime⟩ := (acceptable_iff out w).1 accepted
  refine ⟨?_, ?_, ?_, ?_⟩
  · exact List.forall_mem_append.2 ⟨h.odd, List.forall_mem_singleton.2 odd⟩
  · exact List.forall_mem_append.2 ⟨h.popcount, List.forall_mem_singleton.2 count⟩
  · exact List.forall_mem_append.2 ⟨h.prime, List.forall_mem_singleton.2 prime⟩
  · refine List.pairwise_append.2 ⟨h.distance, List.pairwise_singleton _ _, fun x hx y hy => ?_⟩
    rw [List.mem_singleton.1 hy, hamming_comm]
    exact distance x hx

/-- The registers a search begins with (R241, R242). -/
theorem GeneratorOk.begin (p : Params) (seed : Word) : GeneratorOk p ⟨seed, [], 0⟩ :=
  ⟨by simp, .nil, fun _ => rfl, fun _ _ => Nat.zero_le _⟩

/-- A search that goes on keeps its registers in order: a word more and no rejections, or one rejection more within the
ceiling (R241, R247). -/
theorem GeneratorOk.running {p : Params} {g g' : Generator} (hp : p.candOk = true) (h : GeneratorOk p g)
    (step : searchStep p g = .running g') : GeneratorOk p g' := by
  rcases searchStep_cases p g with ⟨accepted, more, e⟩ | ⟨-, -, e⟩ | ⟨-, none, e⟩ | ⟨_, -, -, -, e⟩ |
    ⟨limit, -, some, within, e⟩ <;> rw [e] at step <;> cases step
  · exact ⟨by simpa using more, h.words.append accepted (popcount_candidate hp _), fun _ => rfl, fun _ _ => Nat.zero_le _⟩
  · exact ⟨h.idx, h.words, h.unlimited, h.limited⟩
  · refine ⟨h.idx, h.words, fun none => ?_, fun limit' some' => ?_⟩
    · cases some.symm.trans none
    · cases some.symm.trans some'
      exact within

/-- A search that ends well has nine acceptable words (R244 to R248). -/
theorem GeneratorOk.table {p : Params} {g : Generator} {out : List Word} (hp : p.candOk = true) (h : GeneratorOk p g)
    (step : searchStep p g = .table out) : out.length = 9 ∧ WordsOk out := by
  rcases searchStep_cases p g with ⟨-, -, e⟩ | ⟨accepted, last, e⟩ | ⟨-, -, e⟩ | ⟨_, -, -, -, e⟩ | ⟨_, -, -, -, e⟩ <;>
    rw [e] at step <;> cases step
  have := h.idx
  exact ⟨by rw [List.length_append, List.length_singleton]; omega, h.words.append accepted (popcount_candidate hp _)⟩

end Sys2Proof.Machine
end

section
/-! SUPPORT. The responses of R86, R87 and R261: what each way of ending a command puts on `RSPQ`. -/

namespace Sys2Proof.Machine

/-- The response header as a number (R86). -/
theorem responseHeader_toNat (opc ecode : BitVec 8) :
    (responseHeader opc ecode).toNat = 2 ^ 8 * ecode.toNat + opc.toNat := by
  have ho := opc.isLt
  have he := ecode.isLt
  rw [responseHeader, BitVec.toNat_or, BitVec.toNat_shiftLeft, BitVec.toNat_setWidth, BitVec.toNat_setWidth,
    Nat.mod_eq_of_lt (a := ecode.toNat) (by omega), Nat.mod_eq_of_lt (a := opc.toNat) (by omega), Nat.shiftLeft_eq,
    Nat.mod_eq_of_lt (by omega), Nat.mul_comm, Nat.two_pow_add_eq_or_of_lt ho]

@[simp] theorem headerOpc_responseHeader (opc ecode : BitVec 8) : headerOpc (responseHeader opc ecode) = opc := by
  have := opc.isLt
  apply BitVec.eq_of_toNat_eq
  rw [headerOpc, BitVec.extractLsb'_toNat, responseHeader_toNat, Nat.shiftRight_zero]
  omega

@[simp] theorem responseEcode_responseHeader (opc ecode : BitVec 8) :
    responseEcode (responseHeader opc ecode) = ecode := by
  have := opc.isLt
  have := ecode.isLt
  apply BitVec.eq_of_toNat_eq
  rw [responseEcode, BitVec.extractLsb'_toNat, responseHeader_toNat, Nat.shiftRight_eq_div_pow]
  omega

theorem responseHeader_lt (opc ecode : BitVec 8) : (responseHeader opc ecode).toNat < 2 ^ 16 := by
  have := opc.isLt
  have := ecode.isLt
  rw [responseHeader_toNat]
  omega

theorem faultCode_ne_zero (f : CommandFault) : faultCode f ≠ 0 := by
  cases f <;> decide

/-- The results of a row of R83 whose command delivers neither a boolean nor a table. -/
theorem ResponseOk.of_row {opc : BitVec 8} {row : OpcodeRow} {results : List Word} (legal : opcodeRow opc = some row)
    (count : results.length = row.nres) (plain : opc ≠ 0x25 ∧ opc ≠ 0x26 ∧ opc ≠ 0x30 := by decide) :
    ResponseOk (responseHeader opc 0) results where
  reserved := responseHeader_lt opc 0
  completed _ := ⟨row, by rwa [headerOpc_responseHeader], count⟩
  boolean _ h := by
    rw [headerOpc_responseHeader] at h
    exact (h.elim plain.1 plain.2.1).elim
  table _ h := (plain.2.2 (by rwa [headerOpc_responseHeader] at h)).elim
  ended h := (h (responseEcode_responseHeader opc 0)).elim

theorem boolWord_cases (t : Bool) : boolWord t = 0 ∨ boolWord t = 1 := by
  cases t with
  | false => exact .inl rfl
  | true => exact .inr rfl

/-- R87: the result of `SPRP` and of `ISPRIME`. -/
theorem ResponseOk.of_boolWord {opc : BitVec 8} (h : opc = 0x25 ∨ opc = 0x26) (t : Bool) :
    ResponseOk (responseHeader opc 0) [boolWord t] where
  reserved := responseHeader_lt opc 0
  completed _ := by
    rw [headerOpc_responseHeader]
    rcases h with rfl | rfl
    · exact ⟨_, rfl, rfl⟩
    · exact ⟨_, rfl, rfl⟩
  boolean _ _ := (boolWord_cases t).imp (congrArg ([·])) (congrArg ([·]))
  table _ h' := by
    rw [headerOpc_responseHeader] at h'
    subst h'
    exact absurd h (by decide)
  ended h' := (h' (responseEcode_responseHeader opc 0)).elim

/-- The nine words of `MKSEC` (R241, R248). -/
theorem ResponseOk.of_table {out : List Word} (nine : out.length = 9) (ok : WordsOk out) :
    ResponseOk (responseHeader 0x30 0) out where
  reserved := responseHeader_lt 0x30 0
  completed _ := by
    rw [headerOpc_responseHeader]
    exact ⟨_, rfl, nine⟩
  boolean _ h := by
    rw [headerOpc_responseHeader] at h
    exact absurd h (by decide)
  table _ _ := ok
  ended h := (h (responseEcode_responseHeader 0x30 0)).elim

/-- A header alone with a code of R261 other than 0. -/
theorem ResponseOk.of_code (opc : BitVec 8) {code : BitVec 8} (ne : code ≠ 0)
    (legal : code = refusedCode ∨ ∃ f, code = faultCode f) : ResponseOk (responseHeader opc code) [] where
  reserved := responseHeader_lt opc code
  completed h := (ne (by rwa [responseEcode_responseHeader] at h)).elim
  boolean h := (ne (by rwa [responseEcode_responseHeader] at h)).elim
  table h := (ne (by rwa [responseEcode_responseHeader] at h)).elim
  ended _ := ⟨rfl, by rwa [responseEcode_responseHeader]⟩

theorem ResponseOk.of_fault (opc : BitVec 8) (f : CommandFault) : ResponseOk (responseHeader opc (faultCode f)) [] :=
  .of_code opc (faultCode_ne_zero f) (.inr ⟨f, rfl⟩)

theorem ResponseOk.of_refusal (opc : BitVec 8) : ResponseOk (responseHeader opc refusedCode) [] :=
  .of_code opc (by decide) (.inl rfl)

end Sys2Proof.Machine
end

section
/-! The invariant of the machine: it holds at reset, every operation on the state keeps it, and so does every step. -/

namespace Sys2Proof.Machine

/-- R262: latching a fault leaves `STATUS` legal. -/
theorem Status.legal.latch {st : Status} (h : st.legal) (f : CommandFault) : (st.latch f).legal := by
  unfold Status.latch
  split_ifs with faulted
  · exact h
  · exact ⟨nofun, fun _ => ⟨f, rfl⟩⟩

/-! The operations. -/

/-- The end of a command, whatever was in progress: what must hold is the rest of the state and the response. -/
theorem State.finish_inv {s : State} {header : Word} {results : List Word} (params : s.params.Valid)
    (memory : s.msg.wf = true) (status : s.status.legal)
    (responses : ∀ r ∈ s.rspq, ∃ header results, r = header :: results ∧ ResponseOk header results)
    (ok : ResponseOk header results) : (s.finish (header :: results)).Inv where
  params := params
  memory := memory
  busy := by simp
  status := status
  stale _ := rfl
  generating := nofun
  responses := List.forall_mem_append.2 ⟨responses, List.forall_mem_singleton.2 ⟨_, _, rfl, ok⟩⟩

theorem State.Inv.deliver {s : State} (h : s.Inv) {opc : BitVec 8} {results : List Word}
    (ok : ResponseOk (responseHeader opc 0) results) : (s.deliver opc results).Inv :=
  State.finish_inv h.params h.memory h.status h.responses ok

theorem State.Inv.raiseFault {s : State} (h : s.Inv) (opc : BitVec 8) (f : CommandFault) : (s.raiseFault opc f).Inv :=
  State.finish_inv h.params h.memory (h.status.latch f) h.responses (.of_fault opc f)

theorem State.Inv.refuse {s : State} (h : s.Inv) (opc : BitVec 8) : (s.refuse opc).Inv :=
  State.finish_inv h.params h.memory h.status h.responses (.of_refusal opc)

theorem State.Inv.countDraw {s : State} (h : s.Inv) : s.countDraw.Inv :=
  ⟨h.params, h.memory, h.busy, h.status, h.stale, h.generating, h.responses⟩

theorem State.Inv.withHost {s : State} (h : s.Inv) (rest : List HostInput) : (s.withHost rest).Inv :=
  ⟨h.params, h.memory, h.busy, h.status, h.stale, h.generating, h.responses⟩

/-- A search's registers take new values while a command is in progress and no fault is latched. -/
theorem State.Inv.generate {s : State} (h : s.Inv) (running : s.activity ≠ .idle) (clear : s.status.fault = false)
    {g : Generator} (ok : GeneratorOk s.params g) : (s.generate g).Inv where
  params := h.params
  memory := h.memory
  busy := by simpa using h.busy.2 running
  status := h.status
  stale := h.stale
  generating g' e := by cases e; exact ⟨clear, ok⟩
  responses := h.responses

theorem State.Inv.accept {s : State} (h : s.Inv) (frame : List Word) (ext : Nat) : (s.accept frame ext).Inv where
  params := h.params
  memory := h.memory
  busy := by simp
  status := h.status
  stale _ := rfl
  generating := nofun
  responses := h.responses

theorem State.Inv.hostWrite {s : State} (h : s.Inv) (off : Word) (b : Byte) : (s.hostWrite off b).Inv where
  params := h.params
  memory := State.hostWrite_keeps_wf h.memory off b
  busy := h.busy
  status := h.status
  stale idle := by
    rw [State.hostWrite_status] at idle
    simp [idle, h.stale idle]
  generating := h.generating
  responses := h.responses

theorem State.Inv.afterReset {s : State} (h : s.Inv) : s.afterReset.Inv where
  params := h.params
  memory := h.memory
  busy := by simp
  status := ⟨fun _ => rfl, nofun⟩
  stale _ := rfl
  generating := nofun
  responses := nofun

/-! The commands and the step. -/

/-- If the outcome is a next state, that state has the invariant. -/
def NextInv (o : Host.Outcome State Fault Refusal) : Prop := ∀ t, o = .next t → t.Inv

theorem NextInv.next {t : State} (h : t.Inv) : NextInv (.next t) := by
  rintro _ ⟨⟩
  exact h

theorem NextInv.fault (r : Fault) : NextInv (.fault r) := nofun

/-- A hash command takes `SpanFault`, delivers its one digest, or stops. -/
theorem State.Inv.runHash {s : State} (h : s.Inv) {opc : BitVec 8} (ok : ∀ d : Word, ResponseOk (responseHeader opc 0) [d])
    (S : SecretTable) (seed len : Word) : NextInv (runHash opc S seed len s) := by
  rcases runHash_cases opc S seed len s with ⟨-, e⟩ | ⟨-, -, e⟩ | ⟨-, d, -, e⟩ <;> rw [e]
  · exact .next (h.raiseFault opc _)
  · exact .fault _
  · exact .next (h.countDraw.deliver (ok d))

/-- A Montgomery command delivers its one result or takes `DomainFault`. -/
theorem State.Inv.runMont {s : State} (h : s.Inv) {opc : BitVec 8} {r : Word} (ok : ResponseOk (responseHeader opc 0) [r])
    (domain : Bool) : NextInv (runMont opc domain r s) := by
  rcases runMont_cases opc domain r s with e | e <;> rw [e]
  · exact .next (h.deliver ok)
  · exact .next (h.raiseFault opc _)

/-- Every command answers as R86 and R87 say, or begins a search; it is run while no fault is latched. -/
theorem State.Inv.exec {s : State} (h : s.Inv) (running : s.activity ≠ .idle) (clear : s.status.fault = false)
    (i : Instr) : NextInv (exec i s) := by
  cases i with
  | mul128 a b => exact .next (h.deliver (.of_row rfl rfl))
  | mix a b => exact .next (h.deliver (.of_row rfl rfl))
  | mum a b => exact .next (h.deliver (.of_row rfl rfl))
  | rand x => exact .next (h.deliver (.of_row rfl rfl))
  | hash len => exact h.runHash (fun _ => .of_row rfl rfl) _ _ _
  | hashs len seed => exact h.runHash (fun _ => .of_row rfl rfl) _ _ _
  | hashk len seed S => exact h.runHash (fun _ => .of_row rfl rfl) _ _ _
  | minv n => exact h.runMont (.of_row rfl rfl) _
  | tomont x n => exact h.runMont (.of_row rfl rfl) _
  | mone n => exact h.runMont (.of_row rfl rfl) _
  | mmul a b n nInv => exact h.runMont (.of_row rfl rfl) _
  | mpow base exp n nInv one => exact h.runMont (.of_row rfl rfl) _
  | sprp n a nInv one => exact h.runMont (.of_boolWord (.inl rfl) _) _
  | isprime n => exact .next (h.deliver (.of_boolWord (.inr rfl) _))
  | mksec seed => exact .next (h.generate running clear (.begin _ seed))

/-- One candidate of a search: its registers, its table, or `GenFail`. -/
theorem State.Inv.searchOn {s : State} (h : s.Inv) {g : Generator} (generating : s.activity = .generating g) :
    (s.searchOn g).Inv := by
  obtain ⟨clear, ok⟩ := h.generating g generating
  have hp := h.params.cand
  rcases s.searchOn_cases g with ⟨g', running, e⟩ | ⟨out, table, e⟩ | ⟨-, e⟩ <;> rw [e]
  · exact h.generate (by simp [generating]) clear (ok.running hp running)
  · obtain ⟨nine, words⟩ := ok.table hp table
    exact h.deliver (.of_table nine words)
  · exact h.raiseFault _ _

theorem State.Inv.advance {s : State} (h : s.Inv) {o : Host.Outcome State Fault Refusal} (outcome : AdvanceOutcome s o) :
    NextInv o := by
  cases outcome with
  | waits idle => exact .next h
  | refuses frame accepted faulted => exact .next (h.refuse _)
  | rejects frame f accepted clear illegal => exact .next (h.raiseFault _ f)
  | runs frame i accepted clear legal => exact h.exec (by simp [accepted]) clear i
  | searches g generating => exact .next (h.searchOn generating)

theorem State.Inv.step {s : State} (h : s.Inv) {o : Host.Outcome State Fault Refusal} (outcome : StepOutcome s o) :
    NextInv o := by
  cases outcome with
  | advances rest next => exact (h.withHost rest).advance (advance_outcome _)
  | accepts frame ext rest next ready => exact .next ((h.accept frame ext).withHost rest)
  | writes off b rest next => exact .next ((h.hostWrite off b).withHost rest)
  | resets rest next => exact .next (h.afterReset.withHost rest)

/-- Settles O16: R10 is all that is known of the parameters, and it is what is asked of them. -/
theorem resetMeetsInvariant : Obligations.ResetMeetsInvariant where
  params := Config.params_valid
  memory := Memory.wf_nil
  busy := by simp [State.reset]
  status := ⟨fun _ => rfl, nofun⟩
  stale _ := rfl
  generating := nofun
  responses := nofun

/-- Settles O17, by the cases of a step. -/
theorem stepKeepsInvariant : Obligations.StepKeepsInvariant := fun s t h next => h.step (step_outcome s) t next

end Sys2Proof.Machine
end

section
/-! SUPPORT. The hash engine inside the message: every read it makes lies below `len` (R162), so each piece of it has a value, and
the lane loop's cursor ends where R161 says. Values are in the words of `Sys2Proof.Spec`. -/

namespace Sys2Proof.Machine

/-! Reads. -/

/-- R53: the little-endian number as a sum over byte positions. -/
theorem leValue_map_range (f : Nat → Byte) (n : Nat) :
    leValue ((List.range n).map f) = ∑ k ∈ Finset.range n, 2 ^ (8 * k) * (f k).toNat := by
  induction n generalizing f with
  | zero => rfl
  | succ n ih =>
    have shift (k : Nat) : 2 ^ (8 * (k + 1)) * (f (k + 1)).toNat = 2 ^ 8 * (2 ^ (8 * k) * (f (k + 1)).toNat) := by
      rw [Nat.mul_add, pow_add, Nat.mul_comm (2 ^ (8 * k)), Nat.mul_one, Nat.mul_assoc]
    rw [List.range_succ_eq_map, List.map_cons, List.map_map, leValue_cons, ih (f ∘ Nat.succ), Finset.sum_range_succ',
      Finset.mul_sum, Finset.sum_congr rfl fun k _ => shift k, Nat.mul_zero, pow_zero, Nat.one_mul, Nat.add_comm]
    rfl

/-- A read inside the message answers the little-endian word of its bytes (R52 to R54). -/
theorem State.memRead_eq_le {s : State} {len off : Word} {n : Nat} (inside : off.toNat + n ≤ len.toNat) (pass : ReadPass) :
    s.memRead len pass off n = some (Spec.le s pass off.toNat n) := by
  rw [State.memRead_inside inside, leWord, leValue_map_range, Spec.le]

/-- An offset moved up inside the message does not wrap. -/
theorem toNat_add_inside {p d len : Word} (inside : p.toNat + d.toNat ≤ len.toNat) : (p + d).toNat = p.toNat + d.toNat :=
  BitVec.toNat_add_of_lt (inside.trans_lt len.isLt)

/-! The pieces of the long paths. -/

theorem mixstep_inside {s : State} {len q : Word} (inside : q.toNat + 16 ≤ len.toNat) (k z : Word) :
    mixstep s len q k z = some (Spec.step16 s q.toNat k z) := by
  have moved : (q + 8).toNat = q.toNat + 8 := toNat_add_inside (d := 8) (len := len) (by simpa using (by omega))
  have lower : s.memRead len .first q 8 = some (Spec.le s .first q.toNat 8) := State.memRead_eq_le (by omega) _
  have upper : s.memRead len .first (q + 8) 8 = some (Spec.le s .first (q.toNat + 8) 8) := by
    rw [State.memRead_eq_le (by omega), moved]
  rw [mixstep, lower, upper]
  rfl

/-- The lanes after the block at offset `p` (R157). -/
def blockLanes (s : State) (S : SecretTable) (p : Nat) (z : Lanes) : Lanes :=
  ⟨Spec.step16 s p S[0] z.seed, Spec.step16 s (p + 16) S[1] z.see1, Spec.step16 s (p + 32) S[2] z.see2,
   Spec.step16 s (p + 48) S[3] z.see3, Spec.step16 s (p + 64) S[4] z.see4, Spec.step16 s (p + 80) S[5] z.see5,
   Spec.step16 s (p + 96) S[6] z.see6, Spec.step16 s (p + 112) S[7] z.see7⟩

theorem lanesBlock_inside {s : State} {len p : Word} (inside : p.toNat + 128 ≤ len.toNat) (S : SecretTable) (z : Lanes) :
    lanesBlock s S len p z = some (blockLanes s S p.toNat z) := by
  have lane (d : Word) (h : d.toNat ≤ 112) (k y : Word) :
      mixstep s len (p + d) k y = some (Spec.step16 s (p.toNat + d.toNat) k y) := by
    have moved : (p + d).toNat = p.toNat + d.toNat := toNat_add_inside (len := len) (by omega)
    rw [mixstep_inside (by omega), moved]
  rw [lanesBlock, lane 0 (by decide), lane 16 (by decide), lane 32 (by decide), lane 48 (by decide), lane 64 (by decide),
    lane 80 (by decide), lane 96 (by decide), lane 112 (by decide)]
  rfl

/-- The lanes after `n` blocks from offset `p` on (R157). -/
def lanesAfter (s : State) (S : SecretTable) : Nat → Nat → Lanes → Lanes
  | 0, _, z => z
  | n + 1, p, z => lanesAfter s S n (p + 128) (blockLanes s S p z)

/-- The loop ends where it stands once 128 bytes or fewer are left, whatever the fuel. -/
theorem lanesLoop_of_le {i : Word} (h : i.toNat ≤ 128) (s : State) (S : SecretTable) (len : Word) (fuel : Nat) (p : Word)
    (z : Lanes) : lanesLoop s S len fuel p i z = some (p, i, z) := by
  cases fuel with
  | zero => rfl
  | succ fuel => rw [lanesLoop, if_neg (show ¬ 128 < i from not_lt.2 h)]

/-- With more than 128 bytes left the loop takes the block at its cursor and goes on behind it. -/
theorem lanesLoop_of_lt {s : State} {len p i : Word} (more : 128 < i.toNat) (inside : p.toNat + 128 ≤ len.toNat)
    (S : SecretTable) (fuel : Nat) (z : Lanes) :
    lanesLoop s S len (fuel + 1) p i z = lanesLoop s S len fuel (p + 128) (i - 128) (blockLanes s S p.toNat z) := by
  rw [lanesLoop, if_pos (show 128 < i from more), lanesBlock_inside inside]
  rfl

/-- From `128 n + r` bytes left, `1 ≤ r ≤ 128`, the loop takes `n` blocks and leaves `r` bytes (R157, R161). -/
theorem lanesLoop_blocks {s : State} {S : SecretTable} {len : Word} {r : Nat} (some_left : 1 ≤ r) (at_most : r ≤ 128)
    (n fuel : Nat) (p i : Word) (z : Lanes) (enough : n ≤ fuel) (left : i.toNat = 128 * n + r)
    (inside : p.toNat + i.toNat ≤ len.toNat) :
    ∃ p' i' : Word, lanesLoop s S len fuel p i z = some (p', i', lanesAfter s S n p.toNat z) ∧
      p'.toNat = p.toNat + 128 * n ∧ i'.toNat = r := by
  induction n generalizing fuel p i z with
  | zero => exact ⟨p, i, lanesLoop_of_le (by omega) s S len fuel p z, rfl, by omega⟩
  | succ n ih =>
    obtain ⟨fuel, rfl⟩ := Nat.exists_eq_add_of_le' (show 1 ≤ fuel by omega)
    have moved : (p + 128).toNat = p.toNat + 128 := toNat_add_inside (d := 128) (len := len) (by simpa using (by omega))
    have less : (i - 128).toNat = i.toNat - 128 :=
      BitVec.toNat_sub_of_le (show (128 : Word).toNat ≤ i.toNat by rw [left]; simp; omega)
    obtain ⟨p', i', e, hp, hi⟩ := ih fuel (p + 128) (i - 128) (blockLanes s S p.toNat z) (by omega) (by omega) (by omega)
    refine ⟨p', i', ?_, by omega, hi⟩
    rw [lanesLoop_of_lt (by omega) (by omega), e, moved, lanesAfter]

/-- R161 from the state in which the bulk path enters the loop. -/
theorem lanesLoop_message (s : State) (S : SecretTable) {len : Word} (z : Lanes) (pos : 1 ≤ len.toNat) :
    ∃ p i : Word, lanesLoop s S len (len.toNat / 128) 0 len z =
        some (p, i, lanesAfter s S ((len.toNat - 1) / 128) 0 z) ∧
      p.toNat = 128 * ((len.toNat - 1) / 128) ∧ p.toNat + i.toNat = len.toNat ∧ 1 ≤ i.toNat ∧ i.toNat ≤ 128 := by
  obtain ⟨p, i, e, hp, hi⟩ := lanesLoop_blocks (s := s) (S := S) (len := len) (r := (len.toNat - 1) % 128 + 1) (by omega)
    (by omega) ((len.toNat - 1) / 128) (len.toNat / 128) 0 len z (by omega) (by omega) (by simp)
  have start : (0 : Word).toNat = 0 := rfl
  exact ⟨p, i, e, by omega, by omega, by omega, by omega⟩

/-- Settles O32. -/
theorem laneLoopCount : Obligations.LaneLoopCount := fun s S len z long => by
  obtain ⟨p, i, e, ends⟩ := lanesLoop_message s S z (show 1 ≤ len.toNat by omega)
  exact ⟨p, i, _, e, ends⟩

end Sys2Proof.Machine
end

section
/-! SUPPORT. The hash engine answers for every message (R162), and what it answers is a function of the bytes below `len` and of
`STRIDE_IDX` alone (R35, R173). -/

namespace Sys2Proof.Machine

/-! Strides, short path and final read. -/

theorem strideSteps_inside {s : State} {S : SecretTable} {len : Word} (idx : List (Fin 9)) (q z : Word)
    (inside : q.toNat + 16 * idx.length ≤ len.toNat) :
    strideSteps s S len idx q z = some (Spec.strideFrom s S idx q.toNat z) := by
  induction idx generalizing q z with
  | nil => rfl
  | cons k ks ih =>
    rw [List.length_cons] at inside
    have moved : (q + 16).toNat = q.toNat + 16 := toNat_add_inside (d := 16) (len := len) (by simpa using (by omega))
    rw [strideSteps, mixstep_inside (by omega), Option.bind_eq_bind, Option.bind_some, ih _ _ (by omega), moved]
    rfl

/-- A stride answers, and keeps `p + i = len` (R25, R153 to R155). -/
theorem stride_inside {s : State} (S : SecretTable) {len size : Word} {idx : List (Fin 9)} {c : Cursor}
    (fits : c.p.toNat + c.i.toNat = len.toNat) (covers : size.toNat = 16 * idx.length) :
    ∃ c', stride s S len size idx c = some c' ∧ c'.p.toNat + c'.i.toNat = len.toNat := by
  by_cases more : size < c.i
  · have big : size.toNat < c.i.toNat := more
    have moved : (c.p + size).toNat = c.p.toNat + size.toNat := toNat_add_inside (len := len) (by omega)
    have less : (c.i - size).toNat = c.i.toNat - size.toNat := BitVec.toNat_sub_of_le (show size.toNat ≤ c.i.toNat by omega)
    refine ⟨⟨Spec.strideFrom s S idx c.p.toNat c.seed, c.p + size, c.i - size⟩, ?_, ?_⟩
    · rw [stride, if_pos more, strideSteps_inside _ _ _ (by omega)]
      rfl
    · dsimp only
      omega
  · exact ⟨c, by rw [stride, if_neg more], fits⟩

theorem strides_inside (s : State) (S : SecretTable) {len : Word} {c : Cursor} (fits : c.p.toNat + c.i.toNat = len.toNat) :
    ∃ c', strides s S len c = some c' := by
  let idx := s.params.strideIdx
  obtain ⟨c64, e64, fits64⟩ := stride_inside (s := s) S (size := 64) (idx := [idx[0], idx[1], idx[2], idx[3]]) fits rfl
  obtain ⟨c32, e32, fits32⟩ := stride_inside (s := s) S (size := 32) (idx := [idx[4], idx[5]]) fits64 rfl
  obtain ⟨c16, e16, -⟩ := stride_inside (s := s) S (size := 16) (idx := [idx[6]]) fits32 rfl
  exact ⟨c16, by simp only [strides, idx, e64, e32, e16, Option.bind_eq_bind, Option.bind_some]⟩

theorem bulk_inside (s : State) (S : SecretTable) {len : Word} (seed : Word) (pos : 1 ≤ len.toNat) :
    ∃ c, bulk s S len seed = some c ∧ c.p.toNat + c.i.toNat = len.toNat := by
  obtain ⟨p, i, e, -, fits, -⟩ := lanesLoop_message s S (lanesInit seed) pos
  exact ⟨⟨_, p, i⟩, by rw [bulk, e]; rfl, fits⟩

/-- The last `n` bytes of the message (R145, R159). -/
theorem memRead_last (s : State) {len n : Word} (h : n.toNat ≤ len.toNat) (size : Nat) (fits : size ≤ n.toNat)
    (pass : ReadPass) :
    s.memRead len pass (len - n) size = some (Spec.le s pass (len.toNat - n.toNat) size) := by
  have start : (len - n).toNat = len.toNat - n.toNat := BitVec.toNat_sub_of_le h
  rw [State.memRead_eq_le (by omega), start]

theorem finalPair_inside (s : State) {len : Word} (h : 16 ≤ len.toNat) :
    finalPair s len = some (Spec.le s .last (len.toNat - 16) 8 ^^^ len, Spec.le s .last (len.toNat - 8) 8) := by
  have eight : (8 : Word).toNat ≤ len.toNat := le_trans (by decide) h
  rw [finalPair, memRead_last s (n := 16) h 8 (by decide), memRead_last s eight 8 (by decide)]
  rfl

/-- The four read shapes of R144 to R148. -/
theorem shortPair_inside (s : State) (len : Word) : ∃ ab, shortPair s len = some ab := by
  have first (n : Nat) (h : n ≤ len.toNat) : s.memRead len .first 0 n = some (Spec.le s .first 0 n) :=
    State.memRead_eq_le (off := 0) (by simpa using h) _
  by_cases eight : 8 ≤ len
  · have h : 8 ≤ len.toNat := eight
    exact ⟨_, by rw [shortPair, if_pos eight, first 8 h, memRead_last s (n := 8) h 8 (by decide)]; rfl⟩
  by_cases four : 4 ≤ len
  · have h : 4 ≤ len.toNat := four
    exact ⟨_, by rw [shortPair, if_neg eight, if_pos four, first 4 h, memRead_last s (n := 4) h 4 (by decide)]; rfl⟩
  by_cases one : 1 ≤ len
  · have h : 1 ≤ len.toNat := one
    have half : (len >>> 1).toNat + 1 ≤ len.toNat := by
      rw [BitVec.toNat_ushiftRight, Nat.shiftRight_eq_div_pow]
      omega
    exact ⟨_, by
      rw [shortPair, if_neg eight, if_neg four, if_pos one, first 1 h, State.memRead_eq_le half,
        memRead_last s (n := 1) h 1 (by decide)]
      rfl⟩
  · exact ⟨(0, 0), by rw [shortPair, if_neg eight, if_neg four, if_neg one]; rfl⟩

/-- R162: no read of `core` leaves the message, so `core` always answers a digest. -/
theorem hashCore_answers (s : State) (S : SecretTable) (seed len : Word) : ∃ d, hashCore s S seed len = some d := by
  by_cases short : len ≤ 16
  · obtain ⟨ab, pair⟩ := shortPair_inside s len
    exact ⟨_, by rw [hashCore, if_pos short, pair]; rfl⟩
  have long : 16 < len.toNat := not_le.1 short
  have final := finalPair_inside s long.le
  by_cases blocks : 128 < len
  · obtain ⟨c, lanes, fits⟩ := bulk_inside s S (fold seed S[2] S[1]) (show 1 ≤ len.toNat by omega)
    obtain ⟨c', ends⟩ := strides_inside s S fits
    exact ⟨_, by
      simp only [hashCore, if_neg short, if_pos blocks, lanes, ends, final, Option.bind_eq_bind, Option.bind_some]
      rfl⟩
  · obtain ⟨c', ends⟩ := strides_inside s S (c := ⟨fold seed S[2] S[1], 0, len⟩) (len := len) (by simp)
    exact ⟨_, by
      simp only [hashCore, if_neg short, if_neg blocks, ends, final, Option.bind_eq_bind, Option.bind_some]
      rfl⟩

/-- The span check passed, a hash command delivers `core`'s digest (R173). -/
theorem runHash_of_inside {s : State} {len : Word} (inside : len.toNat ≤ s.ext) {S : SecretTable} {seed d : Word}
    (core : hashCore s S seed len = some d) (opc : BitVec 8) :
    runHash opc S seed len s = .next (s.countDraw.deliver opc [d]) := by
  rw [runHash, if_neg (by omega), core]

/-- The span check failed, it takes `SpanFault` before any read (R173, R265). -/
theorem runHash_of_beyond {s : State} {len : Word} (beyond : s.ext < len.toNat) (opc : BitVec 8) (S : SecretTable)
    (seed : Word) : runHash opc S seed len s = .next (s.raiseFault opc .spanFault) := by
  rw [runHash, if_pos beyond]

/-! Two units whose reads of the message agree. -/

section
variable {s t : State} {len : Word} (reads : s.memRead len = t.memRead len)
include reads

theorem mixstep_congr (q k z : Word) : mixstep s len q k z = mixstep t len q k z := by
  rw [mixstep, mixstep, reads]

theorem shortPair_congr : shortPair s len = shortPair t len := by
  rw [shortPair, shortPair, reads]

theorem finalPair_congr : finalPair s len = finalPair t len := by
  rw [finalPair, finalPair, reads]

theorem lanesBlock_congr (S : SecretTable) (p : Word) (z : Lanes) : lanesBlock s S len p z = lanesBlock t S len p z := by
  simp only [lanesBlock, mixstep_congr reads]

theorem lanesLoop_congr (S : SecretTable) (fuel : Nat) (p i : Word) (z : Lanes) :
    lanesLoop s S len fuel p i z = lanesLoop t S len fuel p i z := by
  induction fuel generalizing p i z with
  | zero => rfl
  | succ fuel ih => simp only [lanesLoop, lanesBlock_congr reads, ih]

theorem bulk_congr (S : SecretTable) (seed : Word) : bulk s S len seed = bulk t S len seed := by
  rw [bulk, bulk, lanesLoop_congr reads]

theorem strideSteps_congr (S : SecretTable) (idx : List (Fin 9)) (q z : Word) :
    strideSteps s S len idx q z = strideSteps t S len idx q z := by
  induction idx generalizing q z with
  | nil => rfl
  | cons k ks ih => simp only [strideSteps, mixstep_congr reads, ih]

theorem stride_congr (S : SecretTable) (size : Word) (idx : List (Fin 9)) (c : Cursor) :
    stride s S len size idx c = stride t S len size idx c := by
  rw [stride, stride, strideSteps_congr reads]

theorem strides_congr (indices : s.params.strideIdx = t.params.strideIdx) (S : SecretTable) (c : Cursor) :
    strides s S len c = strides t S len c := by
  simp only [strides, stride_congr reads, indices]

/-- `core` learns of the unit what its reads and `STRIDE_IDX` tell it, and nothing else (R35). -/
theorem hashCore_congr (indices : s.params.strideIdx = t.params.strideIdx) (S : SecretTable) (seed : Word) :
    hashCore s S seed len = hashCore t S seed len := by
  simp only [hashCore, shortPair_congr reads, bulk_congr reads, strides_congr reads indices, finalPair_congr reads]

end

/-- Two messages that agree below `len` and have no changed byte give the same reads (R173, R174(a)). -/
theorem memRead_congr {s t : State} {len : Word} (unchanged_s : s.stale = []) (unchanged_t : t.stale = [])
    (agree : ∀ off, off < len.toNat → s.msg.read off = t.msg.read off) : s.memRead len = t.memRead len := by
  have fetch (pass : ReadPass) (off : Nat) (below : off < len.toNat) : s.fetchByte pass off = t.fetchByte pass off := by
    rw [State.fetchByte_of_not_stale (by simp [unchanged_s]), State.fetchByte_of_not_stale (by simp [unchanged_t]),
      agree off below]
  funext pass off n
  unfold State.memRead
  refine if_ctx_congr Iff.rfl (fun inside => ?_) fun _ => rfl
  refine congrArg (fun bytes => some (leWord bytes)) (List.map_congr_left fun k hk => ?_)
  have := List.mem_range.1 hk
  exact fetch pass _ (by omega)

/-- Two units with the same reads, the same `STRIDE_IDX` and `len ≤ EXT` deliver the same digest. -/
theorem runHash_same_digest {s t : State} {len : Word} (reads : s.memRead len = t.memRead len)
    (indices : s.params.strideIdx = t.params.strideIdx) (inside_s : len.toNat ≤ s.ext) (inside_t : len.toNat ≤ t.ext)
    (opc : BitVec 8) (S : SecretTable) (seed : Word) :
    ∃ d, runHash opc S seed len s = .next (s.countDraw.deliver opc [d]) ∧
      runHash opc S seed len t = .next (t.countDraw.deliver opc [d]) := by
  obtain ⟨d, core⟩ := hashCore_answers s S seed len
  exact ⟨d, runHash_of_inside inside_s core opc, runHash_of_inside inside_t (hashCore_congr reads indices S seed ▸ core) opc⟩

/-- Settles O36: the three commands differ in table and seed, which the equal parameters make equal. -/
theorem digestDependsOnMessageAlone : Obligations.DigestDependsOnMessageAlone := by
  intro s t len seed S params unchanged_s unchanged_t inside_s inside_t agree
  have reads := memRead_congr unchanged_s unchanged_t agree
  have same := runHash_same_digest reads (congrArg Params.strideIdx params) inside_s inside_t
  refine ⟨?_, ?_, same 0x12 S seed⟩
  · obtain ⟨d, of_s, of_t⟩ := same 0x10 s.params.secretDefault (s.params.defaultSeed ^^^ s.params.seedWhiten)
    rw [params] at of_t
    exact ⟨d, of_s, of_t⟩
  · obtain ⟨d, of_s, of_t⟩ := same 0x11 s.params.secretDefault (seed ^^^ s.params.seedWhiten)
    rw [params] at of_t
    exact ⟨d, of_s, of_t⟩

end Sys2Proof.Machine
end

section
/-! SUPPORT. `STATUS` as the host reads it (R21), what latching a fault does to it (R262), and the values of reset (R36). -/

namespace Sys2Proof.Machine

/-- `STATUS` as a number: `ECODE` from bit 8 on, `FAULT` at bit 1, `BUSY` at bit 0 (R21). -/
theorem Status.word_toNat (st : Status) :
    st.word.toNat = 2 ^ 8 * st.ecode.toNat + (2 * st.fault.toNat + st.busy.toNat) := by
  have he := st.ecode.isLt
  have flags : ((if st.fault then 2 else 0) ||| (if st.busy then 1 else 0) : Word).toNat =
      2 * st.fault.toNat + st.busy.toNat := by
    cases st.fault <;> cases st.busy <;> rfl
  have small : 2 * st.fault.toNat + st.busy.toNat < 2 ^ 8 := by
    have := st.fault.toNat_lt
    have := st.busy.toNat_lt
    omega
  rw [Status.word, BitVec.or_assoc, BitVec.toNat_or, flags, BitVec.toNat_shiftLeft, BitVec.toNat_setWidth,
    Nat.mod_eq_of_lt (a := st.ecode.toNat) (by omega), Nat.shiftLeft_eq, Nat.mod_eq_of_lt (by omega), Nat.mul_comm,
    Nat.two_pow_add_eq_or_of_lt small]

/-- Settles O6: each field of the word is a digit of its number. -/
theorem statusWordLayout : Obligations.StatusWordLayout := by
  intro st
  have number := st.word_toNat
  have hf := st.fault.toNat_lt
  have hb := st.busy.toNat_lt
  have he := st.ecode.isLt
  have field (start n : Nat) : (st.word.extractLsb' start n).toNat = st.word.toNat / 2 ^ start % 2 ^ n := by
    rw [BitVec.extractLsb'_toNat, Nat.shiftRight_eq_div_pow]
  refine ⟨?_, ?_, ?_, ?_, ?_⟩
  · rw [BitVec.getLsbD, Nat.testBit_zero, number]
    cases st.busy <;> simp <;> omega
  · rw [BitVec.getLsbD, Nat.testBit_eq_decide_div_mod_eq, number]
    cases st.fault <;> simp <;> omega
  · apply BitVec.eq_of_toNat_eq
    rw [field, number]
    omega
  · apply BitVec.eq_of_toNat_eq
    rw [field, number, show (0 : BitVec 6).toNat = 0 from rfl]
    omega
  · apply BitVec.eq_of_toNat_eq
    rw [field, number, show (0 : BitVec 48).toNat = 0 from rfl]
    omega

theorem Status.latch_of_faulted {st : Status} (h : st.fault = true) (f : CommandFault) : st.latch f = st := by
  rw [Status.latch, if_pos h]

theorem Status.latch_of_clear {st : Status} (h : st.fault = false) (f : CommandFault) :
    st.latch f = { st with fault := true, ecode := faultCode f } := by
  rw [Status.latch, if_neg (by simp [h])]

/-- Settles O12: R10 is all that is known of the parameters. -/
theorem resetStateValues : Obligations.ResetStateValues :=
  ⟨rfl, rfl, rfl, rfl, rfl, rfl, Config.params_valid⟩

end Sys2Proof.Machine
end

section
/-! SUPPORT. What a command leaves unchanged (R20, R59), and that its response is a function of the parameters, the message and
the extent (R35). -/

namespace Sys2Proof.Machine

/-- The parts of the state that only the host's acts change: the parameters, the extent, the acts to come and the message. -/
structure KeepsSurroundings (s t : State) : Prop where
  params : t.params = s.params
  ext : t.ext = s.ext
  host : t.host = s.host
  msg : t.msg = s.msg

theorem KeepsSurroundings.refl (s : State) : KeepsSurroundings s s := ⟨rfl, rfl, rfl, rfl⟩

/-- No command changes a parameter, the extent, the host's acts or the message. -/
theorem exec_keepsSurroundings {i : Instr} {s t : State} (next : exec i s = .next t) : KeepsSurroundings s t := by
  have outcome := exec_outcome i s
  rw [next] at outcome
  cases outcome with
  | delivers results => exact ⟨rfl, rfl, rfl, rfl⟩
  | hashes d => exact ⟨rfl, rfl, rfl, rfl⟩
  | spanFaults => exact ⟨rfl, rfl, rfl, rfl⟩
  | domainFaults => exact ⟨rfl, rfl, rfl, rfl⟩
  | begins seed mksec => exact ⟨rfl, rfl, rfl, rfl⟩

theorem runHash_draws {opc : BitVec 8} {S : SecretTable} {seed len : Word} {s t : State}
    (next : runHash opc S seed len s = .next t) : t.draws = s.draws ∨ t.draws = s.draws + 1 := by
  rcases runHash_cases opc S seed len s with ⟨-, e⟩ | ⟨-, -, e⟩ | ⟨-, d, -, e⟩ <;> rw [e] at next <;> cases next
  · exact .inl rfl
  · exact .inr rfl

theorem runMont_draws {opc : BitVec 8} {domain : Bool} {r : Word} {s t : State}
    (next : runMont opc domain r s = .next t) : t.draws = s.draws := by
  rcases runMont_cases opc domain r s with e | e <;> rw [e] at next <;> cases next <;> rfl

/-- Only a hash command uses free values (log entry 6). -/
theorem exec_draws {i : Instr} {s t : State} (next : exec i s = .next t) :
    t.draws = s.draws ∨
      (((∃ len, i = .hash len) ∨ (∃ len seed, i = .hashs len seed) ∨ (∃ len seed S, i = .hashk len seed S)) ∧
        t.draws = s.draws + 1) := by
  cases i with
  | hash len => exact (runHash_draws next).imp_right (⟨.inl ⟨_, rfl⟩, ·⟩)
  | hashs len seed => exact (runHash_draws next).imp_right (⟨.inr (.inl ⟨_, _, rfl⟩), ·⟩)
  | hashk len seed S => exact (runHash_draws next).imp_right (⟨.inr (.inr ⟨_, _, _, rfl⟩), ·⟩)
  | minv | tomont | mone | mmul | mpow | sprp => exact .inl (runMont_draws next)
  | mul128 | mix | mum | rand | isprime | mksec => cases next; exact .inl rfl

/-- A fault changes `STATUS` only where none was latched, and is then reported in the response too (R262). -/
theorem raiseFault_reports (s : State) (opc : BitVec 8) (f : CommandFault) :
    ((s.raiseFault opc f).status.fault = s.status.fault ∧ (s.raiseFault opc f).status.ecode = s.status.ecode) ∨
    (s.status.fault = false ∧ (s.raiseFault opc f).status.fault = true ∧ (s.raiseFault opc f).status.ecode = faultCode f ∧
      ∃ h, (s.raiseFault opc f).rspq = s.rspq ++ [[h]] ∧ responseEcode h = (s.raiseFault opc f).status.ecode) := by
  rw [State.raiseFault_status, State.raiseFault_rspq]
  cases faulted : s.status.fault with
  | true => left; rw [Status.latch_of_faulted faulted]; exact ⟨faulted, rfl⟩
  | false =>
    right
    rw [Status.latch_of_clear faulted]
    exact ⟨rfl, rfl, rfl, _, rfl, responseEcode_responseHeader opc _⟩

/-- A command changes `STATUS.FAULT` and `ECODE` only by a `SpanFault` or `DomainFault` of its own (R262, R265, R266). -/
theorem exec_fault {i : Instr} {s t : State} (next : exec i s = .next t) :
    (t.status.fault = s.status.fault ∧ t.status.ecode = s.status.ecode) ∨
      (s.status.fault = false ∧ t.status.fault = true ∧ (t.status.ecode = 0x03 ∨ t.status.ecode = 0x04) ∧
        ∃ h, t.rspq = s.rspq ++ [[h]] ∧ responseEcode h = t.status.ecode) := by
  have outcome := exec_outcome i s
  rw [next] at outcome
  cases outcome with
  | delivers results => exact .inl ⟨rfl, rfl⟩
  | hashes d => exact .inl ⟨rfl, rfl⟩
  | begins seed mksec => exact .inl ⟨rfl, rfl⟩
  | spanFaults =>
    exact (raiseFault_reports s i.opc .spanFault).imp_right fun ⟨clear, set, code, told⟩ => ⟨clear, set, .inl code, told⟩
  | domainFaults =>
    exact (raiseFault_reports s i.opc .domainFault).imp_right fun ⟨clear, set, code, told⟩ => ⟨clear, set, .inr code, told⟩

/-- Settles O21. -/
theorem commandFrame : Obligations.CommandFrame := by
  intro i s t next
  obtain ⟨params, ext, host, msg⟩ := exec_keepsSurroundings next
  exact ⟨params, ext, host, msg, fun a => by rw [msg], exec_draws next, exec_fault next⟩

/-! Two units that hold the same parameters, message and extent. -/

/-- Two outcomes that answer alike: one response each, the same, and no command in progress; or one search each, the same, and
no response. -/
def SameAnswer (s t : State) (o o' : Host.Outcome State Fault Refusal) : Prop :=
  ∃ s' t', o = .next s' ∧ o' = .next t' ∧
    ((∃ r, s'.rspq = s.rspq ++ [r] ∧ t'.rspq = t.rspq ++ [r] ∧ s'.activity = .idle ∧ t'.activity = .idle) ∨
     (∃ g, s'.activity = .generating g ∧ t'.activity = .generating g ∧ s'.rspq = s.rspq ∧ t'.rspq = t.rspq))

section
variable (s t : State)

theorem SameAnswer.deliver (opc : BitVec 8) (results : List Word) :
    SameAnswer s t (.next (s.deliver opc results)) (.next (t.deliver opc results)) :=
  ⟨_, _, rfl, rfl, .inl ⟨_, rfl, rfl, rfl, rfl⟩⟩

theorem SameAnswer.countedDeliver (opc : BitVec 8) (results : List Word) :
    SameAnswer s t (.next (s.countDraw.deliver opc results)) (.next (t.countDraw.deliver opc results)) :=
  ⟨_, _, rfl, rfl, .inl ⟨_, rfl, rfl, rfl, rfl⟩⟩

theorem SameAnswer.raiseFault (opc : BitVec 8) (f : CommandFault) :
    SameAnswer s t (.next (s.raiseFault opc f)) (.next (t.raiseFault opc f)) :=
  ⟨_, _, rfl, rfl, .inl ⟨_, rfl, rfl, rfl, rfl⟩⟩

theorem SameAnswer.generate (g : Generator) : SameAnswer s t (.next (s.generate g)) (.next (t.generate g)) :=
  ⟨_, _, rfl, rfl, .inr ⟨g, rfl, rfl, rfl, rfl⟩⟩

theorem SameAnswer.runMont (opc : BitVec 8) (domain : Bool) (r : Word) :
    SameAnswer s t (runMont opc domain r s) (runMont opc domain r t) := by
  cases domain with
  | true => exact .deliver s t opc [r]
  | false => exact .raiseFault s t opc .domainFault

end

/-- The extent decides the span check alike, and equal reads give one digest (R35, R173). -/
theorem SameAnswer.runHash {s t : State} {len : Word} (reads : s.memRead len = t.memRead len)
    (indices : s.params.strideIdx = t.params.strideIdx) (ext : s.ext = t.ext) (opc : BitVec 8) (S : SecretTable)
    (seed : Word) : SameAnswer s t (runHash opc S seed len s) (runHash opc S seed len t) := by
  rcases le_or_gt len.toNat s.ext with inside | beyond
  · obtain ⟨d, of_s, of_t⟩ := runHash_same_digest reads indices inside (ext ▸ inside) opc S seed
    rw [of_s, of_t]
    exact .countedDeliver s t opc [d]
  · rw [runHash_of_beyond beyond, runHash_of_beyond (ext ▸ beyond)]
    exact .raiseFault s t opc .spanFault

/-- Settles O22, command by command: only `RAND` and the hash commands look at the state at all. -/
theorem noHiddenState : Obligations.NoHiddenState := by
  intro i s t params msg ext unchanged_s unchanged_t
  show SameAnswer s t (exec i s) (exec i t)
  have reads (len : Word) : s.memRead len = t.memRead len :=
    memRead_congr unchanged_s unchanged_t fun off _ => by rw [msg]
  have runHash (len : Word) := SameAnswer.runHash (reads len) (congrArg Params.strideIdx params) ext
  cases i with
  | mul128 a b => exact .deliver s t _ _
  | mix a b => exact .deliver s t _ _
  | mum a b => exact .deliver s t _ _
  | rand x =>
    simp only [exec, execRand, params]
    exact .deliver s t _ _
  | hash len =>
    simp only [exec, execHash, params]
    exact runHash len _ _ _
  | hashs len seed =>
    simp only [exec, execHashs, params]
    exact runHash len _ _ _
  | hashk len seed S => exact runHash len _ _ _
  | minv n => exact .runMont s t _ _ _
  | tomont x n => exact .runMont s t _ _ _
  | mone n => exact .runMont s t _ _ _
  | mmul a b n nInv => exact .runMont s t _ _ _
  | mpow base e n nInv one => exact .runMont s t _ _ _
  | sprp n a nInv one => exact .runMont s t _ _ _
  | isprime n => exact .deliver s t _ _
  | mksec seed => exact .generate s t _

end Sys2Proof.Machine
end

section
/-! SUPPORT. The step by the host's next act (R22, R62, R290, R295): what the unit's own step keeps and when it answers, and that it
does not look at the host's acts. -/

namespace Sys2Proof.Machine

/-! What the unit's own step changes. -/

theorem searchOn_keepsSurroundings (s : State) (g : Generator) : KeepsSurroundings s (s.searchOn g) := by
  rcases s.searchOn_cases g with ⟨g', -, e⟩ | ⟨out, -, e⟩ | ⟨-, e⟩ <;> rw [e] <;> exact ⟨rfl, rfl, rfl, rfl⟩

/-- The unit's own step changes no parameter, no message byte, no extent and no act of the host (R20, R59). -/
theorem advance_keepsSurroundings {s t : State} (next : advance s = .next t) : KeepsSurroundings s t := by
  have outcome := advance_outcome s
  rw [next] at outcome
  generalize e : Host.Outcome.next t = o at outcome
  cases outcome with
  | waits idle => cases e; exact .refl s
  | refuses frame accepted faulted => cases e; exact ⟨rfl, rfl, rfl, rfl⟩
  | rejects frame f accepted clear illegal => cases e; exact ⟨rfl, rfl, rfl, rfl⟩
  | runs frame i accepted clear legal => exact exec_keepsSurroundings e.symm
  | searches g generating => cases e; exact searchOn_keepsSurroundings s g

/-- Settles O19, by the cases of a step. -/
theorem unitWritesNoMemory : Obligations.UnitWritesNoMemory := by
  intro s t next
  have outcome := step_outcome s
  rw [next] at outcome
  generalize e : Host.Outcome.next t = o at outcome
  cases outcome with
  | advances rest act =>
    obtain ⟨params, -, -, msg⟩ := advance_keepsSurroundings e.symm
    exact ⟨params, fun _ => msg⟩
  | accepts frame ext rest act ready => cases e; exact ⟨rfl, fun _ => rfl⟩
  | writes off b rest act => cases e; exact ⟨rfl, fun no_write => (no_write off b rest act).elim⟩
  | resets rest act => cases e; exact ⟨rfl, fun _ => rfl⟩

/-! When the unit answers. -/

/-- No response, and `BUSY` as it was. -/
def GoesOn (s t : State) : Prop := t.rspq = s.rspq ∧ t.status.busy = s.status.busy

/-- One response, and `BUSY` 0. -/
def Answers (s t : State) : Prop := t.status.busy = false ∧ ∃ r, t.rspq = s.rspq ++ [r]

theorem exec_goesOn_or_answers {i : Instr} {s t : State} (next : exec i s = .next t) : GoesOn s t ∨ Answers s t := by
  have outcome := exec_outcome i s
  rw [next] at outcome
  cases outcome with
  | delivers results => exact .inr ⟨rfl, _, rfl⟩
  | hashes d => exact .inr ⟨rfl, _, rfl⟩
  | spanFaults => exact .inr ⟨rfl, _, rfl⟩
  | domainFaults => exact .inr ⟨rfl, _, rfl⟩
  | begins seed mksec => exact .inl ⟨rfl, rfl⟩

theorem searchOn_goesOn_or_answers (s : State) (g : Generator) : GoesOn s (s.searchOn g) ∨ Answers s (s.searchOn g) := by
  rcases s.searchOn_cases g with ⟨g', -, e⟩ | ⟨out, -, e⟩ | ⟨-, e⟩ <;> rw [e]
  · exact .inl ⟨rfl, rfl⟩
  · exact .inr ⟨rfl, _, rfl⟩
  · exact .inr ⟨rfl, _, rfl⟩

/-- The unit's own step answers only a command in progress (R22, R280). -/
theorem advance_goesOn_or_answers {s t : State} (next : advance s = .next t) :
    GoesOn s t ∨ (s.activity ≠ .idle ∧ Answers s t) := by
  have outcome := advance_outcome s
  rw [next] at outcome
  generalize e : Host.Outcome.next t = o at outcome
  cases outcome with
  | waits idle => cases e; exact .inl ⟨rfl, rfl⟩
  | refuses frame accepted faulted => cases e; exact .inr ⟨by simp [accepted], rfl, _, rfl⟩
  | rejects frame f accepted clear illegal => cases e; exact .inr ⟨by simp [accepted], rfl, _, rfl⟩
  | runs frame i accepted clear legal => exact (exec_goesOn_or_answers e.symm).imp_right (⟨by simp [accepted], ·⟩)
  | searches g generating => cases e; exact (searchOn_goesOn_or_answers s g).imp_right (⟨by simp [generating], ·⟩)

/-- Settles O15: the unit's own step goes on or answers, and no other act of the host but `RESET` lowers `BUSY`. -/
theorem responseExactlyWhenBusyFalls : Obligations.ResponseExactlyWhenBusyFalls := by
  intro s t inv next no_reset
  have outcome := step_outcome s
  rw [next] at outcome
  generalize e : Host.Outcome.next t = o at outcome
  cases outcome with
  | advances rest act =>
    rcases advance_goesOn_or_answers e.symm with ⟨rspq, busy⟩ | ⟨running, fell, response⟩
    · exact .inl ⟨rspq, busy.trans⟩
    · exact .inr ⟨inv.busy.2 running, fell, response⟩
  | accepts frame ext rest act ready => cases e; exact .inl ⟨rfl, fun _ => rfl⟩
  | writes off b rest act => cases e; exact .inl ⟨rfl, id⟩
  | resets rest act => exact (no_reset rest act).elim

/-! Offers. -/

theorem step_of_no_act {s : State} (h : s.host = []) : step s = advance s := by
  rw [step, turn, h]

theorem step_of_offer_idle {s : State} {frame : List Word} {ext : Nat} {rest : List HostInput} (idle : s.status.busy = false)
    (h : s.host = .offer frame ext :: rest) : step s = .next ((s.accept frame ext).withHost rest) := by
  rw [step, turn, h]
  exact if_neg (by simp [idle])

theorem step_of_offer_busy {s : State} {frame : List Word} {ext : Nat} {rest : List HostInput} (busy : s.status.busy = true)
    (h : s.host = .offer frame ext :: rest) : step s = advance s := by
  rw [step, turn, h]
  exact if_pos busy

/-- Settles O9. -/
theorem offerAcceptedWhenIdle : Obligations.OfferAcceptedWhenIdle := fun _ _ _ _ idle act => step_of_offer_idle idle act

/-- An outcome with other acts of the host to come. -/
def outcomeWithHost (rest : List HostInput) : Host.Outcome State Fault Refusal → Host.Outcome State Fault Refusal
  | .next t => .next (t.withHost rest)
  | .fault r => .fault r
  | .refused r => .refused r

section
variable (rest : List HostInput) (s : State)

theorem runHash_withHost (opc : BitVec 8) (S : SecretTable) (seed len : Word) :
    runHash opc S seed len (s.withHost rest) = outcomeWithHost rest (runHash opc S seed len s) := by
  rcases le_or_gt len.toNat s.ext with inside | beyond
  · obtain ⟨d, core⟩ := hashCore_answers s S seed len
    have core' : hashCore (s.withHost rest) S seed len = some d := by
      rw [hashCore_congr (s := s.withHost rest) (t := s) rfl rfl, core]
    rw [runHash_of_inside inside core, runHash_of_inside (s := s.withHost rest) inside core']
    rfl
  · rw [runHash_of_beyond beyond, runHash_of_beyond (s := s.withHost rest) beyond]
    rfl

theorem runMont_withHost (opc : BitVec 8) (domain : Bool) (r : Word) :
    runMont opc domain r (s.withHost rest) = outcomeWithHost rest (runMont opc domain r s) := by
  cases domain with
  | true => rfl
  | false => rfl

/-- A command does not look at the host's acts to come. -/
theorem exec_withHost (i : Instr) : exec i (s.withHost rest) = outcomeWithHost rest (exec i s) := by
  cases i with
  | hash | hashs | hashk => exact runHash_withHost rest s _ _ _ _
  | minv | tomont | mone | mmul | mpow | sprp => exact runMont_withHost rest s _ _ _
  | mul128 | mix | mum | rand | isprime | mksec => rfl

theorem searchOn_withHost (g : Generator) : (s.withHost rest).searchOn g = (s.searchOn g).withHost rest := by
  rw [State.searchOn, State.searchOn, State.withHost_params]
  cases searchStep s.params g with
  | running g' => rfl
  | table out => rfl
  | failed => rfl

/-- The unit's own step does not look at the host's acts to come. -/
theorem advance_withHost : advance (s.withHost rest) = outcomeWithHost rest (advance s) := by
  rw [advance, advance, State.withHost_activity]
  cases s.activity with
  | idle => rfl
  | generating g => exact congrArg Host.Outcome.next (searchOn_withHost rest s g)
  | accepted frame =>
    dsimp only
    rw [runFrame, runFrame, State.withHost_status]
    split_ifs with faulted
    · rfl
    · cases decodeFrame frame with
      | error f => rfl
      | ok i => exact exec_withHost rest s i

end

/-- Settles O10: while `BUSY = 1` the step is the unit's own, which does not look at the host's acts. -/
theorem offerHeldOffWhileBusy : Obligations.OfferHeldOffWhileBusy := by
  intro s t frame ext rest busy act undisturbed
  have alone : advance (s.withHost []) = .next t := (step_of_no_act rfl).symm.trans undisturbed
  calc step s = advance ((s.withHost []).withHost s.host) := step_of_offer_busy busy act
    _ = outcomeWithHost s.host (.next t) := by rw [advance_withHost, alone]

end Sys2Proof.Machine
end

section
/-! SUPPORT. Little-endian words byte by byte, a narrow read as the low bytes of a wider one (R52 to R55), and what a read of a
changed byte can return (R62, U4). -/

namespace Sys2Proof.Machine

theorem leValue_append (xs ys : List Byte) : leValue (xs ++ ys) = leValue xs + 2 ^ (8 * xs.length) * leValue ys := by
  induction xs with
  | nil => simp
  | cons x xs ih =>
    simp only [List.cons_append, leValue_cons, ih, List.length_cons, Nat.mul_add, pow_add]
    ring

/-- The first bytes are the low part of the number. -/
theorem leValue_take {bs : List Byte} {m : Nat} (h : m ≤ bs.length) : leValue (bs.take m) = leValue bs % 2 ^ (8 * m) := by
  have size : (bs.take m).length = m := by rw [List.length_take, min_eq_left h]
  have small : leValue (bs.take m) < 2 ^ (8 * m) := by simpa only [size] using leValue_lt (bs.take m)
  have cut : leValue bs = leValue (bs.take m) + 2 ^ (8 * m) * leValue (bs.drop m) := by
    conv_lhs => rw [← List.take_append_drop m bs, leValue_append, size]
  rw [cut, Nat.add_mul_mod_self_left, Nat.mod_eq_of_lt small]

/-- Byte `k` is digit `k` in base 256. -/
theorem leValue_digit {bs : List Byte} {k : Nat} (h : k < bs.length) :
    leValue bs / 2 ^ (8 * k) % 2 ^ 8 = bs[k].toNat := by
  induction bs generalizing k with
  | nil => simp at h
  | cons b bs ih =>
    have byte := b.isLt
    cases k with
    | zero =>
      rw [leValue_cons, List.getElem_cons_zero]
      omega
    | succ k =>
      have tail : (b.toNat + 2 ^ 8 * leValue bs) / 2 ^ 8 = leValue bs := by omega
      rw [leValue_cons, List.getElem_cons_succ, ← ih (by simpa using h), Nat.mul_succ, Nat.add_comm (8 * k), pow_add,
        ← Nat.div_div_eq_div_mul, tail]

/-- Byte `k` of an assembled word (R53). -/
theorem leWord_extract {bs : List Byte} (fits : bs.length ≤ 8) {k : Nat} (h : k < bs.length) :
    (leWord bs).extractLsb' (8 * k) 8 = bs[k] := by
  apply BitVec.eq_of_toNat_eq
  rw [BitVec.extractLsb'_toNat, leWord_toNat fits, Nat.shiftRight_eq_div_pow, leValue_digit h]

/-- The word of the first `m` bytes keeps the low `8·m` bits. -/
theorem leWord_take {bs : List Byte} (fits : bs.length ≤ 8) {m : Nat} (h : m ≤ bs.length) :
    leWord (bs.take m) = leWord bs &&& BitVec.ofNat 64 (2 ^ (8 * m) - 1) := by
  have le : 2 ^ (8 * m) ≤ 2 ^ 64 := Nat.pow_le_pow_right (by decide) (by omega)
  have pos : 0 < 2 ^ (8 * m) := Nat.two_pow_pos _
  apply BitVec.eq_of_toNat_eq
  rw [BitVec.toNat_and, BitVec.toNat_ofNat, Nat.mod_eq_of_lt (by omega), Nat.and_two_pow_sub_one_eq_mod,
    leWord_toNat ((List.length_take_le m bs).trans (h.trans fits)), leWord_toNat fits, leValue_take h]

/-- A read that would leave the message has no value. -/
theorem State.memRead_outside {s : State} {len off : Word} {n : Nat} (h : len.toNat < off.toNat + n) (pass : ReadPass) :
    s.memRead len pass off n = none := if_neg (not_le.2 h)

/-- A narrower read at the same offset is the wide one with its upper bytes cleared (R55). -/
theorem State.memRead_narrow {s : State} {len off v : Word} {pass : ReadPass} {m n : Nat} (narrow : m ≤ n) (fits : n ≤ 8)
    (wide : s.memRead len pass off n = some v) :
    s.memRead len pass off m = some (v &&& BitVec.ofNat 64 (2 ^ (8 * m) - 1)) := by
  obtain ⟨inside, rfl⟩ := (s.memRead_eq_some_iff len off pass n v).1 wide
  rw [State.memRead_inside (by omega), ← leWord_take (by simpa using fits) (by simpa using narrow), ← List.map_take,
    List.take_range, min_eq_left narrow]

/-- The values a byte held before the host changed it under the command, newest first (R62). -/
def State.heldValues (s : State) (off : Nat) : List Byte := (s.stale.filter (fun c => c.1 == off)).map (fun c => c.2)

theorem State.mem_heldValues {s : State} {off : Nat} {b : Byte} : b ∈ s.heldValues off ↔ (off, b) ∈ s.stale := by
  simp [State.heldValues]

/-- The free value picks one of the held values, or past their end the current one (U4). -/
theorem State.fetchByte_eq_getD (s : State) (pass : ReadPass) (off : Nat) :
    s.fetchByte pass off = (s.heldValues off).getD
      (Config.staleChoice s.draws pass off % ((s.heldValues off).length + 1)) (s.msg.read off) := by
  rw [State.fetchByte, ← State.heldValues]
  cases s.heldValues off with
  | nil => rfl
  | cons b held => rfl

/-- A byte reads as it stands or as a value it held before the host changed it (R62, R294). -/
theorem State.fetchByte_current_or_held (s : State) (pass : ReadPass) (off : Nat) :
    s.fetchByte pass off = s.msg.read off ∨ s.fetchByte pass off ∈ s.heldValues off := by
  rw [State.fetchByte_eq_getD]
  generalize Config.staleChoice s.draws pass off % ((s.heldValues off).length + 1) = choice
  rcases lt_or_ge choice (s.heldValues off).length with held | past
  · rw [List.getD_eq_getElem _ _ held]
    exact .inr (List.getElem_mem held)
  · exact .inl (List.getD_eq_default _ _ past)

theorem step_of_write {s : State} {off : Word} {b : Byte} {rest : List HostInput} (h : s.host = .write off b :: rest) :
    step s = .next ((s.hostWrite off b).withHost rest) := by
  rw [step, turn, h]

end Sys2Proof.Machine
end

section
/-! The message space: what a host write changes, and what a read of it answers. -/

namespace Sys2Proof.Machine

/-- Settles O20: the step is the host's write, whose effect on the bytes is that of `Memory.write`. -/
theorem hostWriteChangesOneByte : Obligations.HostWriteChangesOneByte := by
  intro s off b rest wf act
  exact ⟨_, step_of_write act, Memory.read_write wf off.toNat b, State.hostWrite_keeps_wf wf off b,
    rfl, rfl, rfl, rfl, rfl, rfl, rfl, rfl⟩

/-- Settles O29: unchanged bytes are fetched as they stand, and the word is assembled from them byte by byte. -/
theorem memReadIsLittleEndian : Obligations.MemReadIsLittleEndian := by
  intro s len off pass unchanged
  have fetch (k : Nat) : s.fetchByte pass (off.toNat + k) = s.msg.read (off.toNat + k) :=
    State.fetchByte_of_not_stale (by simp [unchanged]) pass
  refine ⟨fun inside => ⟨_, State.memRead_inside inside pass, ?_, fun k hk => ?_⟩, (State.memRead_outside · pass)⟩
  · rw [leWord_toNat (by simp), leValue_map_range]
    simp only [fetch]
  · rw [leWord_extract (by simp) (by simpa using hk), List.getElem_map, List.getElem_range, fetch]

/-- Settles O30: the half is a narrow read of the word, the byte one of the half. -/
theorem mixedWidthReadsAgree : Obligations.MixedWidthReadsAgree := by
  intro s len off pass inside
  have word := State.memRead_inside (s := s) inside pass
  have half := State.memRead_narrow (m := 4) (by decide) (by decide) word
  have byte := State.memRead_narrow (m := 1) (by decide) (by decide) half
  exact ⟨_, _, _, word, half, byte, rfl, rfl⟩

/-- Settles O31: the value held before a change is one of those recorded for that offset. -/
theorem changedByteReadsOldOrNew : Obligations.ChangedByteReadsOldOrNew := fun s pass off =>
  ⟨(s.fetchByte_current_or_held pass off).imp_right State.mem_heldValues.1, fun unchanged =>
    State.fetchByte_of_not_stale (fun (_, b) mem eq => unchanged b (eq ▸ mem)) pass⟩

end Sys2Proof.Machine
end

section
/-! SUPPORT. Headers (R82), the rows of the opcode map (R83), and what the decoder answers to a frame, test by test in the order
of R92. -/

namespace Sys2Proof

open Sys2Proof.Spec

/-! Headers. -/

@[simp] theorem headerOpc_of_opc (opc : BitVec 8) : headerOpc (opc.setWidth 64) = opc := by
  have := opc.isLt
  apply BitVec.eq_of_toNat_eq
  simp only [headerOpc, BitVec.extractLsb'_toNat, BitVec.toNat_setWidth, Nat.shiftRight_zero]
  omega

/-- A header with `RSV = 0` is its operation code alone (R82). -/
theorem eq_opc_of_headerRsv {h : Word} (reserved : headerRsv h = 0) : h = (headerOpc h).setWidth 64 := by
  have := h.isLt
  have high := congrArg BitVec.toNat reserved
  rw [headerRsv, BitVec.extractLsb'_toNat, Nat.shiftRight_eq_div_pow, show (0 : BitVec 56).toNat = 0 from rfl] at high
  apply BitVec.eq_of_toNat_eq
  rw [headerOpc, BitVec.toNat_setWidth, BitVec.extractLsb'_toNat, Nat.shiftRight_zero]
  omega

/-! Rows. -/

theorem opcodeRow_eq_some {opc : BitVec 8} {row : OpcodeRow} (found : opcodeRow opc = some row) :
    row ∈ opcodeRows ∧ row.opc = opc :=
  ⟨List.mem_of_find?_eq_some found, by simpa using List.find?_some found⟩

/-- No two rows have the same operation code. -/
theorem opcodeRow_of_mem : ∀ row ∈ opcodeRows, opcodeRow row.opc = some row := by
  simp only [opcodeRows, List.forall_mem_cons]
  exact ⟨rfl, rfl, rfl, rfl, rfl, rfl, rfl, rfl, rfl, rfl, rfl, rfl, rfl, rfl, rfl, nofun⟩

/-- The statements' opcode map is the decoder's. -/
theorem opcodeMap_eq : opcodeMap = opcodeRows.map (fun row => (row.opc.setWidth 64, row.nops)) := rfl

/-- A row binds every operand list of its own length, to the command whose encoding is that frame (R81, R83, R84). -/
def OpcodeRow.Encodes (row : OpcodeRow) : Prop :=
  ∀ ops : List Word, ops.length = row.nops → ∃ i, row.bind ops = some i ∧ encode i = row.opc.setWidth 64 :: ops

section
variable {opc : BitVec 8} {nres : Nat}

theorem OpcodeRow.Encodes.bind1 {f : Word → Instr} (h : ∀ a, encode (f a) = [opc.setWidth 64, a]) :
    OpcodeRow.Encodes ⟨opc, 1, nres, bind1 f⟩ := fun
  | [a], _ => ⟨f a, rfl, h a⟩

theorem OpcodeRow.Encodes.bind2 {f : Word → Word → Instr} (h : ∀ a b, encode (f a b) = [opc.setWidth 64, a, b]) :
    OpcodeRow.Encodes ⟨opc, 2, nres, bind2 f⟩ := fun
  | [a, b], _ => ⟨f a b, rfl, h a b⟩

theorem OpcodeRow.Encodes.bind4 {f : Word → Word → Word → Word → Instr}
    (h : ∀ a b c d, encode (f a b c d) = [opc.setWidth 64, a, b, c, d]) :
    OpcodeRow.Encodes ⟨opc, 4, nres, bind4 f⟩ := fun
  | [a, b, c, d], _ => ⟨f a b c d, rfl, h a b c d⟩

theorem OpcodeRow.Encodes.bind5 {f : Word → Word → Word → Word → Word → Instr}
    (h : ∀ a b c d e, encode (f a b c d e) = [opc.setWidth 64, a, b, c, d, e]) :
    OpcodeRow.Encodes ⟨opc, 5, nres, bind5 f⟩ := fun
  | [a, b, c, d, e], _ => ⟨f a b c d e, rfl, h a b c d e⟩

theorem OpcodeRow.Encodes.bindHashk : OpcodeRow.Encodes ⟨0x12, 11, nres, bindHashk⟩ := fun
  | [_, _, _, _, _, _, _, _, _, _, _], _ => ⟨_, rfl, rfl⟩

end

theorem encodes_of_mem : ∀ row ∈ opcodeRows, row.Encodes := by
  simp only [opcodeRows, List.forall_mem_cons]
  exact ⟨.bind2 fun _ _ => rfl, .bind2 fun _ _ => rfl, .bind2 fun _ _ => rfl, .bind1 fun _ => rfl, .bind1 fun _ => rfl,
    .bind2 fun _ _ => rfl, .bindHashk, .bind1 fun _ => rfl, .bind2 fun _ _ => rfl, .bind1 fun _ => rfl,
    .bind4 fun _ _ _ _ => rfl, .bind5 fun _ _ _ _ _ => rfl, .bind4 fun _ _ _ _ => rfl, .bind1 fun _ => rfl,
    .bind1 fun _ => rfl, nofun⟩

/-- `HASHK`'s table words go back to the table they were listed from (R84). -/
theorem bindHashk_toList (len seed : Word) (secret : SecretTable) :
    bindHashk (len :: seed :: secret.toList) = some (.hashk len seed secret) := by
  obtain ⟨⟨words⟩, nine⟩ := secret
  match words, nine with
  | [_, _, _, _, _, _, _, _, _], _ => rfl

/-- Each command's row binds its operands back to it. -/
theorem bind_operands (i : Instr) :
    ∃ row, opcodeRow i.opc = some row ∧ i.operands.length = row.nops ∧ row.bind i.operands = some i := by
  cases i with
  | hashk len seed secret => exact ⟨_, rfl, by simp [Instr.operands], bindHashk_toList len seed secret⟩
  | _ => exact ⟨_, rfl, rfl, rfl⟩

/-! The decoder, by the tests of R92. -/

theorem decodeFrame_nil : decodeFrame [] = .error .frameFault := rfl

/-- R92 step 2: a header that is no row's, for its `RSV` or for its operation code, is illegal whatever follows it. -/
theorem decodeFrame_of_no_row {h : Word} (illegal : ∀ row ∈ opcodeRows, h ≠ row.opc.setWidth 64) (ops : List Word) :
    decodeFrame (h :: ops) = .error .illegalCommand := by
  rw [decodeFrame]
  split_ifs with reserved
  · rfl
  · have none_found : opcodeRow (headerOpc h) = none := by
      refine Option.eq_none_iff_forall_ne_some.2 fun row found => ?_
      obtain ⟨mem, opc⟩ := opcodeRow_eq_some found
      exact illegal row mem (opc ▸ eq_opc_of_headerRsv (not_not.1 reserved))
    rw [none_found]

/-- R92 step 3. -/
theorem decodeFrame_of_wrong_count {row : OpcodeRow} (mem : row ∈ opcodeRows) {ops : List Word}
    (count : ops.length ≠ row.nops) : decodeFrame (row.opc.setWidth 64 :: ops) = .error .frameFault := by
  simp [decodeFrame, Laws.headerRsv_of_opc, opcodeRow_of_mem row mem, count]

/-- R92 step 4. -/
theorem decodeFrame_of_bind {row : OpcodeRow} (mem : row ∈ opcodeRows) {ops : List Word} (count : ops.length = row.nops)
    {i : Instr} (binds : row.bind ops = some i) : decodeFrame (row.opc.setWidth 64 :: ops) = .ok i := by
  simp [decodeFrame, Laws.headerRsv_of_opc, opcodeRow_of_mem row mem, count, binds]

/-- A row's header with the row's number of operands decodes, to the command whose encoding it is. -/
theorem decodeFrame_of_right_count {row : OpcodeRow} (mem : row ∈ opcodeRows) {ops : List Word}
    (count : ops.length = row.nops) :
    ∃ i, decodeFrame (row.opc.setWidth 64 :: ops) = .ok i ∧ encode i = row.opc.setWidth 64 :: ops := by
  obtain ⟨i, binds, encodes⟩ := encodes_of_mem row mem ops count
  exact ⟨i, decodeFrame_of_bind mem count binds, encodes⟩

end Sys2Proof
end

section
/-! SUPPORT. The examination of an accepted descriptor (R269), and the responses to it as the statements write them. -/

namespace Sys2Proof.Machine

open Sys2Proof.Spec

/-! The step that examines it. -/

theorem step_of_wait {s : State} {rest : List HostInput} (h : s.host = .wait :: rest) :
    step s = advance (s.withHost rest) := by
  rw [step, turn, h]

section
variable {s : State} {frame : List Word} (accepted : s.activity = .accepted frame)
include accepted

theorem advance_of_faulted (faulted : s.status.fault = true) : advance s = .next (s.refuse (frameOpc frame)) := by
  simp only [advance, accepted, runFrame, faulted, if_true]

theorem advance_of_decode_error (clear : s.status.fault = false) {f : CommandFault} (rejected : decodeFrame frame = .error f) :
    advance s = .next (s.raiseFault (frameOpc frame) f) := by
  simp [advance, accepted, runFrame, clear, rejected]

theorem advance_of_decode_ok (clear : s.status.fault = false) {i : Instr} (legal : decodeFrame frame = .ok i) :
    advance s = exec i s := by
  simp [advance, accepted, runFrame, clear, legal]

end

/-! Responses. -/

/-- Fault entry as the statements write it (R262, R270). -/
theorem raiseFault_eq_trapped (s : State) (opc : BitVec 8) (f : CommandFault) :
    s.raiseFault opc f = trapped s (responseHeader opc (faultCode f)) (faultCode f) := by
  rw [State.raiseFault, trapped, Status.latch]
  cases s.status.fault with
  | true => rfl
  | false => rfl

/-- A refusal as the statements write it (R262). -/
theorem refuse_eq_answered (s : State) (opc : BitVec 8) : s.refuse opc = answered s (responseHeader opc refusedCode) [] := rfl

/-- A response header that echoes the `OPC` of a descriptor's header word (R86, R262). -/
theorem responseHeader_headerOpc (h : Word) (ecode : BitVec 8) :
    responseHeader (headerOpc h) ecode = (ecode.setWidth 64 <<< 8) ||| (h &&& 0xFF) := by
  have low : (headerOpc h).setWidth 64 = h &&& 0xFF := by
    apply BitVec.eq_of_toNat_eq
    rw [headerOpc, BitVec.toNat_setWidth, BitVec.extractLsb'_toNat, Nat.shiftRight_zero, BitVec.toNat_and,
      show (0xFF : Word).toNat = 2 ^ 8 - 1 from rfl, Nat.and_two_pow_sub_one_eq_mod]
    omega
  rw [responseHeader, low]

end Sys2Proof.Machine
end

section
/-! Encoding and decoding: the two are inverse, and an accepted descriptor is examined by the tests of R92 in their order. -/

namespace Sys2Proof.Machine

open Sys2Proof.Spec

/-- Settles O1: each command's row is found by its operation code and binds its operands. -/
theorem decodeOfEncode : Obligations.DecodeOfEncode := by
  intro i
  obtain ⟨row, found, count, binds⟩ := bind_operands i
  obtain ⟨mem, opc⟩ := opcodeRow_eq_some found
  rw [encode, ← opc]
  exact decodeFrame_of_bind mem count binds

/-- Settles O2, by the tests of R92: only a row's header with the row's number of operands decodes. -/
theorem encodeOfDecode : Obligations.EncodeOfDecode := by
  intro frame i decodes
  cases frame with
  | nil => rw [decodeFrame_nil] at decodes; contradiction
  | cons h ops =>
    by_cases legal : ∃ row ∈ opcodeRows, h = row.opc.setWidth 64
    · obtain ⟨row, mem, rfl⟩ := legal
      by_cases count : ops.length = row.nops
      · obtain ⟨j, decodes_j, encodes⟩ := decodeFrame_of_right_count mem count
        obtain rfl : i = j := Except.ok.inj (decodes.symm.trans decodes_j)
        exact encodes
      · rw [decodeFrame_of_wrong_count mem count] at decodes; contradiction
    · push Not at legal
      rw [decodeFrame_of_no_row legal] at decodes; contradiction

/-- Settles O3: each of the frames is an encoding. -/
theorem sampleDescriptorsDecode : Obligations.SampleDescriptorsDecode :=
  ⟨decodeOfEncode (.mul128 3 5), decodeOfEncode (.mum 3 5), decodeOfEncode (.rand 7), decodeOfEncode (.hashs 3 0x1234),
    decodeOfEncode (.tomont 2 101), decodeOfEncode (.sprp 1 2 3 4), decodeOfEncode (.mksec 9)⟩

/-- Settles O4: the decoder's answer to each kind of frame, and the response that goes with it. -/
theorem descriptorExaminedInOrder : Obligations.DescriptorExaminedInOrder := by
  intro s frame accepted alone
  rw [step_of_no_act alone]
  refine ⟨fun faulted => ?refused, fun clear => ⟨?empty, ?examined⟩⟩
  case refused =>
    rw [advance_of_faulted accepted faulted]
    refine ⟨?_, ?_⟩
    · rintro rfl
      rfl
    · rintro h ops rfl
      rw [refuse_eq_answered, frameOpc, responseHeader_headerOpc]
      rfl
  case empty =>
    rintro rfl
    rw [advance_of_decode_error accepted clear decodeFrame_nil, raiseFault_eq_trapped]
    rfl
  case examined =>
    rintro h ops rfl
    rw [opcodeMap_eq]
    simp only [List.forall_mem_map]
    refine ⟨?illegal, ?count, ?run⟩
    case illegal =>
      intro illegal
      rw [advance_of_decode_error accepted clear (decodeFrame_of_no_row illegal ops), raiseFault_eq_trapped, frameOpc,
        responseHeader_headerOpc]
      rfl
    case count =>
      rintro row mem rfl count
      rw [advance_of_decode_error accepted clear (decodeFrame_of_wrong_count mem count), raiseFault_eq_trapped, frameOpc,
        headerOpc_of_opc]
      rfl
    case run =>
      rintro row mem rfl count
      obtain ⟨i, decodes, encodes⟩ := decodeFrame_of_right_count mem count
      exact ⟨i, encodes, advance_of_decode_ok accepted clear decodes⟩

/-- Settles O5. -/
theorem responseHeaderLayout : Obligations.ResponseHeaderLayout := fun opc ecode =>
  ⟨headerOpc_responseHeader opc ecode, responseEcode_responseHeader opc ecode, responseHeader_lt opc ecode⟩

/-- Settles O7: in each of the three cases the step is the unit's own. -/
theorem stepRunsDecodedCommand : Obligations.StepRunsDecodedCommand := by
  intro s frame i accepted clear decodes
  refine ⟨fun alone => ?_, fun rest waits => ?_, fun f e rest offers busy => ?_⟩
  · rw [step_of_no_act alone, advance_of_decode_ok accepted clear decodes]
  · exact (step_of_wait waits).trans (advance_of_decode_ok (s := s.withHost rest) accepted clear decodes)
  · rw [step_of_offer_busy busy offers, advance_of_decode_ok accepted clear decodes]

/-- Settles O35: in each pair the two commands run one `core` on one table and one seed. -/
theorem hashEntryPointsAgree : Obligations.HashEntryPointsAgree := by
  intro s len seed inside
  obtain ⟨d, core⟩ := hashCore_answers s s.params.secretDefault (s.params.defaultSeed ^^^ s.params.seedWhiten) len
  obtain ⟨d', core'⟩ := hashCore_answers s s.params.secretDefault (seed ^^^ s.params.seedWhiten) len
  exact ⟨⟨d, runHash_of_inside inside core 0x10, runHash_of_inside inside core 0x11⟩,
    ⟨d', runHash_of_inside inside core' 0x11, runHash_of_inside inside core' 0x12⟩⟩

end Sys2Proof.Machine
end

section
/-! The multiply-mix unit: a product is known by its two halves, and a delivered response is an answer of the statements. -/

namespace Sys2Proof.Machine

open Sys2Proof.Spec

/-- R110: the two halves lose nothing of the product. -/
theorem mul128_recompose (a b : Word) :
    (mul128 a b).2.toNat * 2 ^ 64 + (mul128 a b).1.toNat = a.toNat * b.toNat := by
  rw [mul128_lo, mul128_hi]
  exact Nat.div_add_mod' _ _

/-- The greatest product is `(2^64 - 1)^2 = (2^64 - 2) * 2^64 + 1`. -/
theorem mul128_hi_le (a b : Word) : (mul128 a b).2.toNat ≤ 2 ^ 64 - 2 := by
  have greatest : a.toNat * b.toNat ≤ (2 ^ 64 - 1) * (2 ^ 64 - 1) :=
    Nat.mul_le_mul (Nat.le_sub_one_of_lt a.isLt) (Nat.le_sub_one_of_lt b.isLt)
  have := mul128_recompose a b
  omega

/-- Two words that recompose the product are its halves. -/
theorem mul128_eq_of_product {a b lo hi : Word} (product : a.toNat * b.toNat = hi.toNat * 2 ^ 64 + lo.toNat) :
    mul128 a b = (lo, hi) := by
  have := lo.isLt
  refine Prod.ext (BitVec.eq_of_toNat_eq ?_) (BitVec.eq_of_toNat_eq ?_)
  · rw [mul128_lo]; show _ = lo.toNat; omega
  · rw [mul128_hi]; show _ = hi.toNat; omega

/-- R112. -/
theorem mix_eq_xor (a b : Word) : mix a b = (mul128 a b).1 ^^^ (mul128 a b).2 := rfl

/-- R113. -/
theorem mum_eq_mix_hi (a b : Word) : mum a b = (mix a b, (mul128 a b).2) := rfl

/-- R116(c). -/
theorem mul128_zero (b : Word) : mul128 0 b = (0, 0) := mul128_eq_of_product (by simp)

/-- R116(d). -/
theorem mul128_one (b : Word) : mul128 1 b = (b, 0) := mul128_eq_of_product (by simp)

/-- R116(e): a power of two moves the top `j` bits of `b` into the upper half. -/
theorem mul128_shiftLeft_one {j : Nat} (h : j ≤ 63) (b : Word) :
    mul128 ((1 : Word) <<< j) b = (b <<< j, b >>> (64 - j)) := by
  have power : ((1 : Word) <<< j).toNat = 2 ^ j := by
    rw [BitVec.toNat_shiftLeft, Nat.shiftLeft_eq, show (1 : Word).toNat = 1 from rfl, one_mul]
    exact Nat.mod_eq_of_lt (Nat.pow_lt_pow_right (by decide) (by omega))
  have split : 2 ^ 64 = 2 ^ (64 - j) * 2 ^ j := by rw [← pow_add, Nat.sub_add_cancel (by omega)]
  have upper : b.toNat / 2 ^ (64 - j) = b.toNat * 2 ^ j / 2 ^ 64 := by
    rw [split, Nat.mul_div_mul_right _ _ (Nat.two_pow_pos j)]
  apply mul128_eq_of_product
  rw [power, BitVec.toNat_shiftLeft, BitVec.toNat_ushiftRight, Nat.shiftLeft_eq, Nat.shiftRight_eq_div_pow, upper,
    Nat.div_add_mod', Nat.mul_comm]

/-- The two parts of a word shifted apart by `j` have no bit in common, so folding them rotates the word. -/
theorem shiftLeft_xor_ushiftRight_eq_rotateLeft {j : Nat} (h : j ≤ 63) (b : Word) :
    b <<< j ^^^ b >>> (64 - j) = b.rotateLeft j := by
  ext k inside
  simp only [BitVec.getElem_rotateLeft, Nat.mod_eq_of_lt (show j < 64 by omega)]
  by_cases low : k < j
  · simp [low, BitVec.getLsbD_eq_getElem (show 64 - j + k < 64 by omega)]
  · simp [low, BitVec.getLsbD_of_ge b (64 - j + k) (by omega)]

/-- R116(f): a product of one word has no upper half. -/
theorem mul128_of_lt {a b : Word} (small : a.toNat * b.toNat < 2 ^ 64) : mul128 a b = (a * b, 0) :=
  mul128_eq_of_product (by rw [BitVec.toNat_mul, Nat.mod_eq_of_lt small]; simp)

/-- A completed command's answer as the statements write it (R86). -/
theorem deliver_eq_answered (s : State) (opc : BitVec 8) (results : List Word) :
    s.deliver opc results = answered s (responseHeader opc 0) results := rfl

theorem exec_mul128 (a b : Word) (s : State) :
    exec (.mul128 a b) s = .next (s.deliver 0x01 [(mul128 a b).1, (mul128 a b).2]) := rfl

theorem exec_mix (a b : Word) (s : State) : exec (.mix a b) s = .next (s.deliver 0x02 [mix a b]) := rfl

theorem exec_mum (a b : Word) (s : State) :
    exec (.mum a b) s = .next (s.deliver 0x03 [mix a b, (mul128 a b).2]) := rfl

end Sys2Proof.Machine
end

section
/-! The multiply-mix unit: the product's halves, the laws of R116, and the three commands. -/

namespace Sys2Proof.Machine

open Sys2Proof.Spec

/-- Settles O23. -/
theorem mul128ExactProduct : Obligations.Mul128ExactProduct := fun a b =>
  ⟨mul128_lo a b, mul128_hi a b, mul128_recompose a b, mul128_hi_le a b⟩

/-- Settles O25: each law of `mul128` is a recomposition of the product, and `mix` and `mum` fold its halves; two products with
zero have one fold. -/
theorem mixerLaws : Obligations.MixerLaws := by
  refine ⟨fun a b => ?symmetry, fun b => ?zero, fun b => ?one, fun j b _ le => ?power, fun a b small => ?small, ?collision⟩
  case symmetry =>
    have comm := mul128_comm a b
    simp only [mum_eq_mix_hi, mix_eq_xor, comm, and_self]
  case zero =>
    rw [mum_eq_mix_hi, mix_eq_xor, mul128_zero]
    exact ⟨rfl, rfl, rfl⟩
  case one =>
    rw [mum_eq_mix_hi, mix_eq_xor, mul128_one]
    simp
  case power =>
    rw [mix_eq_xor, mul128_shiftLeft_one le]
    exact ⟨rfl, shiftLeft_xor_ushiftRight_eq_rotateLeft le b⟩
  case small => simp [mix_eq_xor, mul128_of_lt small]
  case collision =>
    have fold_zero (b : Word) : mix 0 b = 0 := by rw [mix_eq_xor, mul128_zero]; rfl
    exact ⟨0, 0, 1, by decide, (fold_zero 0).trans (fold_zero 1).symm⟩

/-- Settles O26: the halves of the product are the words the three commands fold. -/
theorem mixerCommandsComplete : Obligations.MixerCommandsComplete := by
  intro a b s
  refine ⟨(mul128 a b).1, (mul128 a b).2, mul128_recompose a b, rfl, ?_, rfl, ?_, rfl, ?_⟩
  · rw [exec_mul128, deliver_eq_answered]; rfl
  · rw [exec_mix, deliver_eq_answered, mix_eq_xor]; rfl
  · rw [exec_mum, deliver_eq_answered, mix_eq_xor]; rfl

/-- Settles O24. -/
theorem mixAndMumFoldTheProduct : Obligations.MixAndMumFoldTheProduct := fun a b =>
  ⟨mix_eq_xor a b, mum_eq_mix_hi a b, congrArg Prod.fst (mum_eq_mix_hi a b)⟩

end Sys2Proof.Machine
end

section
/-! The pseudo-random generator: what one draw gives, where it gives 0, and the states as a counter modulo `2^64`. -/

namespace Sys2Proof.Machine

/-- R116(c). -/
theorem mix_zero_left (b : Word) : mix 0 b = 0 := by rw [mix_eq_xor, mul128_zero]; rfl

theorem mix_comm (a b : Word) : mix a b = mix b a := by rw [mix_eq_xor, mix_eq_xor, mul128_comm]

/-- R131: the new state. -/
theorem rand_snd (p : Params) (s : Word) : (rand p s).2 = s + p.prngK0 := rfl

/-- R131: the output is a function of the new state alone. -/
theorem rand_fst (p : Params) (s : Word) :
    (rand p s).1 = mix (s + p.prngK0) ((s + p.prngK0) ^^^ p.prngK1) := rfl

/-- R132, corner case (a): the advance wraps to the state 0. -/
theorem rand_of_advance_zero {p : Params} {s : Word} (wraps : s + p.prngK0 = 0) : rand p s = (0, 0) := by
  refine Prod.ext ?_ ?_
  · rw [rand_fst, wraps, mix_zero_left]
  · rw [rand_snd, wraps]

/-- R132, corner case (b): the advance reaches `PRNG_K1`. -/
theorem rand_of_advance_K1 {p : Params} {s : Word} (reaches : s + p.prngK0 = p.prngK1) :
    rand p s = (0, p.prngK1) := by
  refine Prod.ext ?_ ?_
  · rw [rand_fst, reaches, BitVec.xor_self, mix_comm]
    exact mix_zero_left p.prngK1
  · rw [rand_snd, reaches]

theorem exec_rand (x : Word) (s : State) :
    exec (.rand x) s = .next (s.deliver 0x08 [(rand s.params x).1, (rand s.params x).2]) := rfl

/-- The next term of an arithmetic progression of words. -/
theorem progression_succ (s0 d : Word) (k : Nat) :
    s0 + BitVec.ofNat 64 k * d + d = s0 + BitVec.ofNat 64 (k + 1) * d := by
  rw [BitVec.ofNat_add, add_mul, BitVec.add_assoc, show BitVec.ofNat 64 1 = 1 from rfl, one_mul]

/-- R133: the state advances by `PRNG_K0` at each draw. -/
theorem iterate_rand_state (p : Params) (s0 : Word) (k : Nat) :
    (fun x => (rand p x).2)^[k] s0 = s0 + BitVec.ofNat 64 k * p.prngK0 := by
  induction k with
  | zero => simp
  | succ k ih => rw [Function.iterate_succ_apply', ih, rand_snd, progression_succ]

/-- A multiple of a word is 0 when `2^64` divides the multiple of its value. -/
theorem ofNat_mul_eq_zero_iff (k : Nat) (d : Word) : BitVec.ofNat 64 k * d = 0 ↔ 2 ^ 64 ∣ d.toNat * k := by
  rw [← BitVec.toNat_inj, BitVec.toNat_mul, BitVec.toNat_ofNat, Nat.mod_mul_mod, Nat.mul_comm]
  exact Nat.dvd_iff_mod_eq_zero.symm

/-- The multiples of a word return to 0 with the period of R133. -/
theorem ofNat_mul_eq_zero_iff_period_dvd (k : Nat) (d : Word) :
    BitVec.ofNat 64 k * d = 0 ↔ 2 ^ 64 / Nat.gcd d.toNat (2 ^ 64) ∣ k := by
  have divides : Nat.gcd (2 ^ 64) d.toNat ∣ 2 ^ 64 := Nat.gcd_dvd_left _ _
  have positive : 0 < Nat.gcd (2 ^ 64) d.toNat := Nat.gcd_pos_of_pos_left _ (Nat.two_pow_pos 64)
  rw [ofNat_mul_eq_zero_iff, Nat.gcd_comm, Nat.div_dvd_iff_dvd_mul divides positive]
  exact Nat.dvd_gcd_mul_iff_dvd_mul.symm

end Sys2Proof.Machine
end

section
/-! The pseudo-random generator: the command `RAND` and the sequence of its states. -/

namespace Sys2Proof.Machine

/-- Settles O28: the states are an arithmetic progression, which is back at its start when the multiple of `PRNG_K0` is 0. -/
theorem randSequenceIsCounter : Obligations.RandSequenceIsCounter := by
  intro p s0 k at'
  have state : (fun x => (rand p x).2)^[k] s0 = at' k := iterate_rand_state p s0 k
  have next : at' k + p.prngK0 = at' (k + 1) := progression_succ s0 p.prngK0 k
  refine ⟨state, ?output, ?period⟩
  case output => rw [state, rand_fst, next]
  case period =>
    rw [state]
    exact add_eq_left.trans (ofNat_mul_eq_zero_iff_period_dvd k p.prngK0)

/-- Settles O27: the command delivers `rand`'s pair, which is known at the two states that give the output 0. -/
theorem randCommandCompletes : Obligations.RandCommandCompletes := by
  intro x s
  refine ⟨rfl, ?general, fun wraps => ?zero, fun reaches => ?atK1⟩
  case general => rw [exec_rand, deliver_eq_answered, rand_fst, rand_snd]; rfl
  case zero => rw [exec_rand, deliver_eq_answered, rand_of_advance_zero wraps]; rfl
  case atK1 => rw [exec_rand, deliver_eq_answered, rand_of_advance_K1 reaches]; rfl

end Sys2Proof.Machine
end

section
/-! The hash engine in closed form: the value of each piece of `core` in the words of `Sys2Proof.Spec`, piece by piece of R141 to
R165. -/

namespace Sys2Proof.Machine

/-! The short path. -/

/-- A one-byte read is the byte, zero-extended (R54). -/
theorem le_one (s : State) (pass : ReadPass) (off : Nat) : Spec.le s pass off 1 = (s.fetchByte pass off).setWidth 64 := by
  rw [Spec.le, Finset.sum_range_one, Nat.mul_zero, pow_zero, Nat.one_mul, Nat.add_zero, BitVec.ofNat_toNat]

/-- R147's word as a number: its three bytes do not overlap. -/
theorem packShort_bytes (a b c : Byte) :
    packShort (a.setWidth 64) (b.setWidth 64) (c.setWidth 64) =
      BitVec.ofNat 64 (2 ^ 16 * a.toNat + 2 ^ 8 * b.toNat + c.toNat) := by
  have ha := a.isLt
  have hb := b.isLt
  have hc := c.isLt
  have upper : 2 ^ 16 * a.toNat ||| 2 ^ 8 * b.toNat = 2 ^ 8 * (2 ^ 8 * a.toNat + b.toNat) := by
    rw [← Nat.two_pow_add_eq_or_of_lt (by omega)]
    omega
  have shifted (x : Byte) {n : Nat} (h : n ≤ 56) : (x.setWidth 64 <<< n).toNat = 2 ^ n * x.toNat := by
    have small : 2 ^ n * x.toNat < 2 ^ 64 :=
      (Nat.mul_lt_mul_of_le_of_lt (Nat.pow_le_pow_right (by decide) h) x.isLt (Nat.two_pow_pos 56)).trans_eq (by decide)
    rw [BitVec.toNat_shiftLeft, BitVec.toNat_setWidth_of_le (by decide), Nat.shiftLeft_eq, Nat.mul_comm,
      Nat.mod_eq_of_lt small]
  apply BitVec.eq_of_toNat_eq
  rw [packShort, BitVec.toNat_or, BitVec.toNat_or, shifted a (by decide), shifted b (by decide), upper,
    BitVec.toNat_setWidth_of_le (by decide), ← Nat.two_pow_add_eq_or_of_lt hc, BitVec.toNat_ofNat,
    Nat.mod_eq_of_lt (by omega)]
  omega

section
variable (s : State) {len : Word}

/-- A read at the start of the message (R145 to R147). -/
theorem memRead_start {n : Nat} (h : n ≤ len.toNat) : s.memRead len .first 0 n = some (Spec.le s .first 0 n) :=
  State.memRead_eq_le (off := 0) (by simpa using h) _

/-- R145: 8 bytes or more. -/
theorem shortPair_eight (h : 8 ≤ len.toNat) :
    shortPair s len = some (Spec.le s .first 0 8, Spec.le s .last (len.toNat - 8) 8) := by
  rw [shortPair, if_pos (show 8 ≤ len from h), memRead_start s h, memRead_last s (n := 8) h 8 (by decide)]
  rfl

/-- R146: 4 to 7 bytes. -/
theorem shortPair_four (h : 4 ≤ len.toNat) (below : len.toNat ≤ 7) :
    shortPair s len = some (Spec.le s .first 0 4, Spec.le s .last (len.toNat - 4) 4) := by
  have not_eight : ¬ 8 ≤ len := fun eight => absurd (show 8 ≤ len.toNat from eight) (by omega)
  rw [shortPair, if_neg not_eight, if_pos (show 4 ≤ len from h), memRead_start s h, memRead_last s (n := 4) h 4 (by decide)]
  rfl

/-- R147: 1 to 3 bytes. -/
theorem shortPair_one (h : 1 ≤ len.toNat) (below : len.toNat ≤ 3) :
    shortPair s len = some (BitVec.ofNat 64 (2 ^ 16 * (s.fetchByte .first 0).toNat +
      2 ^ 8 * (s.fetchByte .middle (len.toNat / 2)).toNat + (s.fetchByte .last (len.toNat - 1)).toNat), 0) := by
  have not_eight : ¬ 8 ≤ len := fun eight => absurd (show 8 ≤ len.toNat from eight) (by omega)
  have not_four : ¬ 4 ≤ len := fun four => absurd (show 4 ≤ len.toNat from four) (by omega)
  have half : (len >>> 1).toNat = len.toNat / 2 := by rw [BitVec.toNat_ushiftRight, Nat.shiftRight_eq_div_pow, pow_one]
  have middle : s.memRead len .middle (len >>> 1) 1 = some (Spec.le s .middle (len.toNat / 2) 1) := by
    rw [State.memRead_eq_le (by omega), half]
  rw [shortPair, if_neg not_eight, if_neg not_four, if_pos (show 1 ≤ len from h), memRead_start s h, middle,
    memRead_last s (n := 1) h 1 (by decide), ← packShort_bytes, le_one, le_one, le_one]
  rfl

end

/-- R144: the empty message. -/
theorem shortPair_zero (s : State) : shortPair s 0 = some (0, 0) := rfl

/-- A short message's digest from its accumulator pair (R143). -/
theorem hashCore_of_shortPair {s : State} {len a b : Word} (short : len.toNat ≤ 16) (pair : shortPair s len = some (a, b))
    (S : SecretTable) (seed : Word) :
    hashCore s S seed len = some (Spec.finish S len (Spec.fold seed S[0] (S[1] ^^^ len)) a b) := by
  rw [hashCore, if_pos (show len ≤ 16 from short), pair]
  rfl

/-- The short path answers the closed form, by its four read shapes (R143 to R148). -/
theorem hashCore_short {s : State} {len : Word} (short : len.toNat ≤ 16) (S : SecretTable) (seed : Word) :
    hashCore s S seed len = some (Spec.shortDigest s S seed len) := by
  rw [Spec.shortDigest]
  split_ifs with none three seven
  · obtain rfl : len = 0 := BitVec.eq_of_toNat_eq none
    exact hashCore_of_shortPair short (shortPair_zero s) S seed
  · exact hashCore_of_shortPair short (shortPair_one s (by omega) three) S seed
  · exact hashCore_of_shortPair short (shortPair_four s (by omega) seven) S seed
  · exact hashCore_of_shortPair short (shortPair_eight s (by omega)) S seed

/-! The lanes. -/

/-- The last block of `n + 1` is taken from the lanes after the first `n`. -/
theorem lanesAfter_succ (s : State) (S : SecretTable) (n p : Nat) (z : Lanes) :
    lanesAfter s S (n + 1) p z = blockLanes s S (p + 128 * n) (lanesAfter s S n p z) := by
  induction n generalizing p z with
  | zero => rfl
  | succ n ih =>
    rw [lanesAfter, ih, lanesAfter, show p + 128 + 128 * n = p + 128 * (n + 1) by omega]

/-- The lanes do not mix: each is its own chain of steps (R157, R163). -/
theorem lanesAfter_eq_lane (s : State) (S : SecretTable) (seed : Word) (n : Nat) :
    lanesAfter s S n 0 (lanesInit seed) =
      ⟨Spec.lane s S seed 0 n, Spec.lane s S seed 1 n, Spec.lane s S seed 2 n, Spec.lane s S seed 3 n,
       Spec.lane s S seed 4 n, Spec.lane s S seed 5 n, Spec.lane s S seed 6 n, Spec.lane s S seed 7 n⟩ := by
  induction n with
  | zero => rfl
  | succ n ih =>
    rw [lanesAfter_succ, ih, Nat.zero_add]
    rfl

/-- R158's order of combining is no matter. -/
theorem lanesCombine_eq_xor (z : Lanes) :
    lanesCombine z = z.seed ^^^ z.see1 ^^^ z.see2 ^^^ z.see3 ^^^ z.see4 ^^^ z.see5 ^^^ z.see6 ^^^ z.see7 := by
  rw [lanesCombine]
  ac_rfl

/-! The strides. -/

/-- A stride that has at most twice its `n` bytes before it takes its steps if there are more than `n`, and leaves 1 to `n` bytes
(R153 to R155). -/
theorem stride_closed (s : State) (S : SecretTable) {len size : Word} {n : Nat} {idx : List (Fin 9)} {c : Cursor}
    (fits : c.p.toNat + c.i.toNat = len.toNat) (sized : size.toNat = n) (covers : n = 16 * idx.length)
    (pos : 1 ≤ c.i.toNat) (twice : c.i.toNat ≤ 2 * n) :
    ∃ c', stride s S len size idx c = some c' ∧
      c'.seed = (if n ≤ c.i.toNat - 1 then Spec.strideFrom s S idx c.p.toNat c.seed else c.seed) ∧
      c'.p.toNat = c.p.toNat + n * ((c.i.toNat - 1) / n) ∧ c'.i.toNat = (c.i.toNat - 1) % n + 1 := by
  by_cases more : size < c.i
  · have big : size.toNat < c.i.toNat := more
    have moved : (c.p + size).toNat = c.p.toNat + size.toNat := toNat_add_inside (len := len) (by omega)
    have less : (c.i - size).toNat = c.i.toNat - size.toNat := BitVec.toNat_sub_of_le big.le
    have once : (c.i.toNat - 1) / n = 1 := Nat.div_eq_of_lt_le (by omega) (by omega)
    have rest : (c.i.toNat - 1) % n = c.i.toNat - 1 - n := by
      rw [Nat.mod_eq_sub_mod (by omega), Nat.mod_eq_of_lt (by omega)]
    refine ⟨⟨Spec.strideFrom s S idx c.p.toNat c.seed, c.p + size, c.i - size⟩, ?answers, ?seed, ?cursor, ?left⟩
    case answers =>
      rw [stride, if_pos more, strideSteps_inside _ _ _ (by omega)]
      rfl
    case seed => rw [if_pos (by omega)]
    case cursor => rw [moved, once, Nat.mul_one, sized]
    case left =>
      rw [less, rest]
      omega
  · have small : c.i.toNat ≤ size.toNat := not_lt.1 more
    have below : c.i.toNat - 1 < n := by omega
    refine ⟨c, if_neg more, (if_neg (not_le.2 below)).symm, ?cursor, ?left⟩
    case cursor => rw [Nat.div_eq_of_lt below, Nat.mul_zero, Nat.add_zero]
    case left =>
      rw [Nat.mod_eq_of_lt below]
      omega

/-- R165: from 1 to 128 bytes the three strides take the steps of the table. -/
theorem strides_closed (s : State) (S : SecretTable) {len : Word} {c : Cursor} (fits : c.p.toNat + c.i.toNat = len.toNat)
    (pos : 1 ≤ c.i.toNat) (at_most : c.i.toNat ≤ 128) :
    ∃ c', strides s S len c = some c' ∧ c'.seed = Spec.strideSeed s S c.p.toNat c.i.toNat c.seed := by
  let idx := s.params.strideIdx
  obtain ⟨c64, e64, seed64, p64, i64⟩ :=
    stride_closed s S (size := 64) (n := 64) (idx := [idx[0], idx[1], idx[2], idx[3]]) fits rfl rfl pos at_most
  obtain ⟨c32, e32, seed32, p32, i32⟩ :=
    stride_closed s S (len := len) (size := 32) (n := 32) (idx := [idx[4], idx[5]]) (c := c64) (by omega) rfl rfl (by omega)
      (by omega)
  obtain ⟨c16, e16, seed16, -⟩ :=
    stride_closed s S (len := len) (size := 16) (n := 16) (idx := [idx[6]]) (c := c32) (by omega) rfl rfl (by omega) (by omega)
  have left32 : c64.i.toNat - 1 = (c.i.toNat - 1) % 64 := by omega
  have start16 : c32.p.toNat = c.p.toNat + 32 * ((c.i.toNat - 1) / 32) := by omega
  have left16 : c32.i.toNat - 1 = (c.i.toNat - 1) % 32 := by omega
  have all64 : 64 ≤ c.i.toNat - 1 ↔ 64 < c.i.toNat := by omega
  refine ⟨c16, by simp only [strides, idx, e64, e32, e16, Option.bind_eq_bind, Option.bind_some], ?_⟩
  rw [seed16, seed32, seed64, p64, left32, start16, left16, if_congr all64 rfl rfl]
  rfl

/-! The long path. -/

/-- Where the strides begin: at the start with the folded seed, or behind the lanes' `floor((len - 1) / 128)` blocks with the
lanes combined (R150, R156 to R161). -/
theorem strides_entry (s : State) (S : SecretTable) {len : Word} (folded : Word) (pos : 1 ≤ len.toNat) :
    ∃ c : Cursor, (if 128 < len then bulk s S len folded else some ⟨folded, 0, len⟩) = some c ∧
      c.seed = (if len.toNat ≤ 128 then folded
        else lanesCombine (lanesAfter s S ((len.toNat - 1) / 128) 0 (lanesInit folded))) ∧
      c.p.toNat = 128 * ((len.toNat - 1) / 128) ∧ c.i.toNat = len.toNat - 128 * ((len.toNat - 1) / 128) := by
  by_cases blocks : 128 < len
  · have big : 128 < len.toNat := blocks
    obtain ⟨p, i, e, hp, fits, -⟩ := lanesLoop_message s S (lanesInit folded) pos
    exact ⟨⟨_, p, i⟩, by rw [if_pos blocks, bulk, e]; rfl, (if_neg (by omega)).symm, hp, by dsimp only; omega⟩
  · have small : len.toNat ≤ 128 := not_lt.1 blocks
    have start : (0 : Word).toNat = 0 := rfl
    exact ⟨⟨folded, 0, len⟩, if_neg blocks, (if_pos small).symm, by dsimp only; omega, by dsimp only; omega⟩

/-- A long message's digest from the cursor on which the strides begin and the one on which they end (R150, R159). -/
theorem hashCore_of_strides {s : State} {S : SecretTable} {seed len : Word} (long : 16 < len.toNat) {c c' : Cursor}
    (entry : (if 128 < len then bulk s S len (fold seed S[2] S[1]) else some ⟨fold seed S[2] S[1], 0, len⟩) = some c)
    (ends : strides s S len c = some c') :
    hashCore s S seed len =
      some (Spec.finish S len c'.seed (Spec.le s .last (len.toNat - 16) 8 ^^^ len) (Spec.le s .last (len.toNat - 8) 8)) := by
  have not_short : ¬ len ≤ 16 := not_le.2 long
  by_cases blocks : 128 < len
  · rw [if_pos blocks] at entry
    simp only [hashCore, if_neg not_short, if_pos blocks, entry, ends, finalPair_inside s long.le, Option.bind_eq_bind,
      Option.bind_some]
    rfl
  · rw [if_neg blocks] at entry
    cases entry
    simp only [hashCore, if_neg not_short, if_neg blocks, ends, finalPair_inside s long.le, Option.bind_eq_bind,
      Option.bind_some]
    rfl

/-- The medium and bulk paths answer the closed form (R150 to R161, R165). -/
theorem hashCore_long {s : State} {len : Word} (long : 16 < len.toNat) (S : SecretTable) (seed : Word) :
    hashCore s S seed len = some (Spec.longDigest s S seed len) := by
  obtain ⟨c, entry, combined, hp, hi⟩ := strides_entry s S (fold seed S[2] S[1]) (show 1 ≤ len.toNat by omega)
  obtain ⟨c', ends, strided⟩ := strides_closed s S (c := c) (len := len) (by omega) (by omega) (by omega)
  rw [hashCore_of_strides long entry ends, strided, combined, hp, hi, lanesCombine_eq_xor, lanesAfter_eq_lane]
  rfl

/-- `core` answers the digest in closed form, by length (R141). -/
theorem hashCore_eq_digest (s : State) (S : SecretTable) (seed len : Word) :
    hashCore s S seed len = some (Spec.digest s S seed len) := by
  rw [Spec.digest]
  split_ifs with short
  · exact hashCore_short short S seed
  · exact hashCore_long (not_le.1 short) S seed

/-- Settles O33: the three commands run one `core` on their own table and seed. -/
theorem hashCommandsComputeDigest : Obligations.HashCommandsComputeDigest := fun s len seed S inside =>
  ⟨runHash_of_inside inside (hashCore_eq_digest s s.params.secretDefault (s.params.defaultSeed ^^^ s.params.seedWhiten) len) 0x10,
   runHash_of_inside inside (hashCore_eq_digest s s.params.secretDefault (seed ^^^ s.params.seedWhiten) len) 0x11,
   runHash_of_inside inside (hashCore_eq_digest s S seed len) 0x12⟩

end Sys2Proof.Machine
end

section
/-! Every step of every state answers: the one stop in the model is a read outside the message, which R162 excludes. -/

namespace Sys2Proof.Machine

/-- Of what a command can do, only a read outside the message is no next state, and there is none (R162). -/
theorem exec_completes (i : Instr) (s : State) : Completes (exec i s) := by
  have outcome := exec_outcome i s
  generalize exec i s = o at outcome
  cases outcome with
  | delivers results => exact ⟨_, rfl⟩
  | hashes d => exact ⟨_, rfl⟩
  | spanFaults => exact ⟨_, rfl⟩
  | domainFaults => exact ⟨_, rfl⟩
  | begins seed mksec => exact ⟨_, rfl⟩
  | readsOutside S seed len no_digest =>
    obtain ⟨d, digest⟩ := hashCore_answers s S seed len
    exact absurd (no_digest.symm.trans digest) nofun

theorem advance_completes (s : State) : Completes (advance s) := by
  have outcome := advance_outcome s
  generalize advance s = o at outcome
  cases outcome with
  | waits idle => exact ⟨_, rfl⟩
  | refuses frame accepted faulted => exact ⟨_, rfl⟩
  | rejects frame f accepted clear illegal => exact ⟨_, rfl⟩
  | runs frame i accepted clear legal => exact exec_completes i s
  | searches g generating => exact ⟨_, rfl⟩

/-- Settles O18, by the cases of a step. -/
theorem everyStepAnswers : Obligations.EveryStepAnswers := by
  intro s
  have outcome := step_outcome s
  generalize step s = o at outcome
  cases outcome with
  | advances rest act => exact advance_completes (s.withHost rest)
  | accepts frame ext rest act ready => exact ⟨_, rfl⟩
  | writes off b rest act => exact ⟨_, rfl⟩
  | resets rest act => exact ⟨_, rfl⟩

end Sys2Proof.Machine
end

section
/-! SUPPORT. The Montgomery commands' answers: in its domain a command delivers its one result, outside it takes `DomainFault`
(R208, R266). -/

namespace Sys2Proof.Machine

open Sys2Proof.Spec

theorem runMont_eq_answered {domain : Bool} (h : domain = true) (opc : BitVec 8) (r : Word) (s : State) :
    runMont opc domain r s = .next (answered s (responseHeader opc 0) [r]) := by
  rw [runMont_of_domain h, deliver_eq_answered]

theorem runMont_eq_trapped {domain : Bool} (h : ¬ domain = true) (opc : BitVec 8) (r : Word) (s : State) :
    runMont opc domain r s = .next (trapped s (responseHeader opc 0x04) 0x04) := by
  rw [runMont_of_not_domain (Bool.eq_false_iff.2 h), raiseFault_eq_trapped]
  rfl

section
variable (s : State) {a b n nInv one base exp x : Word}

theorem exec_minv_of_odd (odd : n.toNat % 2 = 1) : exec (.minv n) s = .next (answered s 0x20 [montInv n]) :=
  runMont_eq_answered ((oddMod_iff n).2 odd) 0x20 _ s

theorem exec_minv_of_even (even : n.toNat % 2 = 0) : exec (.minv n) s = .next (trapped s 0x0420 0x04) :=
  runMont_eq_trapped (by rw [oddMod_iff]; omega) 0x20 _ s

theorem exec_tomont_of_odd (odd : n.toNat % 2 = 1) : exec (.tomont x n) s = .next (answered s 0x21 [toMont x n]) :=
  runMont_eq_answered ((oddMod_iff n).2 odd) 0x21 _ s

theorem exec_tomont_of_even (even : n.toNat % 2 = 0) : exec (.tomont x n) s = .next (trapped s 0x0421 0x04) :=
  runMont_eq_trapped (by rw [oddMod_iff]; omega) 0x21 _ s

theorem exec_mone_of_odd (odd : n.toNat % 2 = 1) : exec (.mone n) s = .next (answered s 0x22 [montOne n]) :=
  runMont_eq_answered ((oddMod_iff n).2 odd) 0x22 _ s

theorem exec_mone_of_even (even : n.toNat % 2 = 0) : exec (.mone n) s = .next (trapped s 0x0422 0x04) :=
  runMont_eq_trapped (by rw [oddMod_iff]; omega) 0x22 _ s

theorem exec_mmul_inside (odd : n.toNat % 2 = 1) (inverse : n.toNat * nInv.toNat % 2 ^ 64 = 1) (ha : a.toNat < n.toNat)
    (hb : b.toNat < n.toNat) : exec (.mmul a b n nInv) s = .next (answered s 0x23 [montMul a b n nInv]) :=
  runMont_eq_answered (by simp only [Bool.and_eq_true, oddMod_iff, invOk_iff, isResidue_iff, *, and_self]) 0x23 _ s

theorem exec_mmul_outside (outside : n.toNat % 2 = 0 ∨ n.toNat * nInv.toNat % 2 ^ 64 ≠ 1 ∨ n.toNat ≤ a.toNat ∨
    n.toNat ≤ b.toNat) : exec (.mmul a b n nInv) s = .next (trapped s 0x0423 0x04) :=
  runMont_eq_trapped (by simp only [Bool.and_eq_true, oddMod_iff, invOk_iff, isResidue_iff]; omega) 0x23 _ s

theorem exec_mpow_inside (odd : n.toNat % 2 = 1) (inverse : n.toNat * nInv.toNat % 2 ^ 64 = 1)
    (is_one : one.toNat = 2 ^ 64 % n.toNat) (hb : base.toNat < n.toNat) :
    exec (.mpow base exp n nInv one) s = .next (answered s 0x24 [montPow base exp n nInv one]) :=
  runMont_eq_answered (by simp only [Bool.and_eq_true, oddMod_iff, invOk_iff, oneOk_iff, isResidue_iff, *, and_self]) 0x24 _ s

theorem exec_mpow_outside (outside : n.toNat % 2 = 0 ∨ n.toNat * nInv.toNat % 2 ^ 64 ≠ 1 ∨
    one.toNat ≠ 2 ^ 64 % n.toNat ∨ n.toNat ≤ base.toNat) :
    exec (.mpow base exp n nInv one) s = .next (trapped s 0x0424 0x04) :=
  runMont_eq_trapped (by simp only [Bool.and_eq_true, oddMod_iff, invOk_iff, oneOk_iff, isResidue_iff]; omega) 0x24 _ s

theorem three_le_iff (n : Word) : decide (3 ≤ n) = true ↔ 3 ≤ n.toNat := decide_eq_true_iff

theorem exec_sprp_inside (odd : n.toNat % 2 = 1) (three : 3 ≤ n.toNat) (inverse : n.toNat * nInv.toNat % 2 ^ 64 = 1)
    (is_one : one.toNat = 2 ^ 64 % n.toNat) :
    exec (.sprp n a nInv one) s = .next (answered s 0x25 [boolWord (montSprp n a nInv one)]) :=
  runMont_eq_answered (by simp only [Bool.and_eq_true, oddMod_iff, three_le_iff, invOk_iff, oneOk_iff, *, and_self]) 0x25 _ s

theorem exec_sprp_outside (outside : n.toNat % 2 = 0 ∨ n.toNat < 3 ∨ n.toNat * nInv.toNat % 2 ^ 64 ≠ 1 ∨
    one.toNat ≠ 2 ^ 64 % n.toNat) : exec (.sprp n a nInv one) s = .next (trapped s 0x0425 0x04) :=
  runMont_eq_trapped (by simp only [Bool.and_eq_true, oddMod_iff, three_le_iff, invOk_iff, oneOk_iff]; omega) 0x25 _ s

theorem exec_isprime (n : Word) : exec (.isprime n) s = .next (answered s 0x26 [boolWord (isPrime n)]) := rfl

end

theorem boolWord_eq_one_iff (t : Bool) : boolWord t = 1 ↔ t = true := by
  cases t <;> decide

/-! What a response tells of the command that gave it. -/

/-- A Montgomery command that delivers a word is in its domain, and the word is its result. -/
theorem of_runMont_answered {opc : BitVec 8} {domain : Bool} {r h x : Word} {s : State}
    (delivers : runMont opc domain r s = .next (answered s h [x])) : domain = true ∧ x = r := by
  cases domain with
  | true =>
    have record := congrArg State.rspq (Host.Outcome.next.inj delivers)
    simp only [State.deliver_rspq, answered, List.append_cancel_left_eq, List.cons.injEq, and_true] at record
    exact ⟨rfl, record.2.symm⟩
  | false =>
    have record := congrArg State.rspq (Host.Outcome.next.inj delivers)
    simp [answered] at record

/-- `MINV` delivers to odd moduli alone. -/
theorem of_exec_minv {m x : Word} {s : State} (delivers : exec (.minv m) s = .next (answered s 0x20 [x])) :
    m.toNat % 2 = 1 ∧ x = montInv m :=
  (of_runMont_answered delivers).imp_left (oddMod_iff m).1

/-- `MONE` delivers to odd moduli alone. -/
theorem of_exec_mone {m x : Word} {s : State} (delivers : exec (.mone m) s = .next (answered s 0x22 [x])) :
    m.toNat % 2 = 1 ∧ x = montOne m :=
  (of_runMont_answered delivers).imp_left (oddMod_iff m).1

end Sys2Proof.Machine
end

section
/-! SUPPORT. The inverse modulo `2^64` (R190, R191): five correct bits at the start, and each refinement squares the error. -/

namespace Sys2Proof.Machine

/-- The condition of R208 on `n_inv`, as a product of words. -/
theorem mul_eq_one_iff (n x : Word) : n * x = 1 ↔ n.toNat * x.toNat % 2 ^ 64 = 1 := by
  rw [← BitVec.toNat_inj, BitVec.toNat_mul]
  rfl

/-- The error of an approximate inverse is squared by a refinement (R191). -/
theorem refineInv_error (n x : Word) : 1 - n * refineInv n x = (1 - n * x) ^ 2 := by
  rw [refineInv]
  ring

theorem refineInv_dvd {n x : Word} {k : Nat} (h : 2 ^ k ∣ 1 - n * x) : 2 ^ (2 * k) ∣ 1 - n * refineInv n x := by
  rw [refineInv_error, Nat.mul_comm, pow_mul]
  exact pow_dvd_pow_of_dvd h 2

/-- A product that is 1 in its low five bits differs from 1 by a multiple of 32. -/
theorem dvd_one_sub_of_setWidth_five {p : Word} (low : p.setWidth 5 = 1) : 2 ^ 5 ∣ 1 - p := by
  have digits : p.toNat % 2 ^ 5 = 1 := by
    rw [← BitVec.toNat_setWidth, low]
    rfl
  have split : p = 1 + 2 ^ 5 * BitVec.ofNat 64 (p.toNat / 2 ^ 5) := by
    apply BitVec.eq_of_toNat_eq
    have := p.isLt
    rw [BitVec.toNat_add, BitVec.toNat_mul, BitVec.toNat_ofNat, show ((2 : Word) ^ 5).toNat = 2 ^ 5 from rfl,
      show (1 : Word).toNat = 1 from rfl]
    omega
  refine ⟨-BitVec.ofNat 64 (p.toNat / 2 ^ 5), ?_⟩
  conv_lhs => rw [split]
  ring

/-- The start of R191 on five-bit words. -/
theorem inverse_start_five_bits : ∀ x : BitVec 5, x.getLsbD 0 = true → x * ((3 * x) ^^^ 2) = 1 := by
  decide

/-- `(3n) XOR 2` inverts an odd `n` in its low five bits (R191). -/
theorem inverse_start_dvd {n : Word} (odd : n.toNat % 2 = 1) : 2 ^ 5 ∣ 1 - n * ((3 * n) ^^^ 2) := by
  apply dvd_one_sub_of_setWidth_five
  have low : (n.setWidth 5).getLsbD 0 = true := by
    rw [BitVec.getLsbD_setWidth]
    simpa [oddMod] using (oddMod_iff n).2 odd
  rw [BitVec.setWidth_mul _ _ (by decide), BitVec.setWidth_xor, BitVec.setWidth_mul _ _ (by decide)]
  exact inverse_start_five_bits _ low

/-- R190: the datapath's result is an inverse. -/
theorem mul_montInv {n : Word} (odd : n.toNat % 2 = 1) : n * montInv n = 1 := by
  have error : 2 ^ (2 * (2 * (2 * (2 * 5)))) ∣ 1 - n * montInv n :=
    refineInv_dvd (refineInv_dvd (refineInv_dvd (refineInv_dvd (inverse_start_dvd odd))))
  have wraps : (2 : Word) ^ (2 * (2 * (2 * (2 * 5)))) = 0 := by
    rw [← BitVec.toNat_inj, BitVec.toNat_pow]
    rfl
  rw [wraps, zero_dvd_iff, sub_eq_zero] at error
  exact error.symm

/-- R190: the inverse is unique. -/
theorem eq_montInv {n y : Word} (odd : n.toNat % 2 = 1) (inverse : n * y = 1) : y = montInv n :=
  left_inv_eq_right_inv ((mul_comm y n).trans inverse) (mul_montInv odd)

/-- Only an odd word has an inverse. -/
theorem odd_of_mul_eq_one {n x : Word} (inverse : n * x = 1) : n.toNat % 2 = 1 := by
  rw [mul_eq_one_iff] at inverse
  rcases Nat.mod_two_eq_zero_or_one n.toNat with even | odd
  · have : n.toNat * x.toNat % 2 = 0 := by rw [Nat.mul_mod, even, Nat.zero_mul, Nat.zero_mod]
    omega
  · exact odd

end Sys2Proof.Machine
end

section
/-! SUPPORT. The Montgomery form of a number (R193): it turns `MMUL`'s and `MPOW`'s datapaths into multiplication and powers
of numbers modulo `n` (R196, R198). -/

namespace Sys2Proof.Machine

/-- The Montgomery form of the number `g` modulo `n` (R193). -/
def montForm (n : Word) (g : Nat) : Word := BitVec.ofNat 64 (g * 2 ^ 64 % n.toNat)

theorem toMont_eq_montForm (x n : Word) : toMont x n = montForm n x.toNat := rfl

theorem montOne_eq_montForm (n : Word) : montOne n = montForm n 1 := by rw [montOne, montForm, Nat.one_mul]

section
variable {n : Word} (odd : n.toNat % 2 = 1)
include odd

theorem two_pow_coprime_of_odd (k : Nat) : Nat.Coprime n.toNat (2 ^ k) :=
  (Nat.coprime_two_right.2 (Nat.odd_iff.2 odd)).pow_right k

/-- `2^64` can be cancelled modulo an odd number (R194). -/
theorem mul_two_pow_mod_inj {x y : Nat} :
    x * 2 ^ 64 % n.toNat = y * 2 ^ 64 % n.toNat ↔ x % n.toNat = y % n.toNat :=
  ⟨Nat.ModEq.cancel_right_of_coprime (two_pow_coprime_of_odd odd 64), Nat.ModEq.mul_right (2 ^ 64)⟩

theorem montForm_toNat (g : Nat) : (montForm n g).toNat = g * 2 ^ 64 % n.toNat := by
  have residue : g * 2 ^ 64 % n.toNat < n.toNat := Nat.mod_lt _ (by omega)
  rw [montForm, BitVec.toNat_ofNat, Nat.mod_eq_of_lt (residue.trans n.isLt)]

theorem montForm_lt (g : Nat) : (montForm n g).toNat < n.toNat := by
  rw [montForm_toNat odd]
  exact Nat.mod_lt _ (by omega)

theorem eq_montForm_iff {r : Word} {g : Nat} : r = montForm n g ↔ r.toNat = g * 2 ^ 64 % n.toNat := by
  rw [← BitVec.toNat_inj, montForm_toNat odd]

theorem montForm_inj {g h : Nat} : montForm n g = montForm n h ↔ g % n.toNat = h % n.toNat := by
  rw [eq_montForm_iff odd, montForm_toNat odd, mul_two_pow_mod_inj odd]

/-- A residue is known by its product with `2^64` (R196). -/
theorem eq_of_mul_two_pow_mod {r r' : Word} (hr : r.toNat < n.toNat) (hr' : r'.toNat < n.toNat)
    (same : r.toNat * 2 ^ 64 % n.toNat = r'.toNat * 2 ^ 64 % n.toNat) : r = r' := by
  have residues := (mul_two_pow_mod_inj odd).1 same
  rw [Nat.mod_eq_of_lt hr, Nat.mod_eq_of_lt hr'] at residues
  exact BitVec.eq_of_toNat_eq residues

/-- Every residue is the Montgomery form of some number. -/
theorem exists_eq_montForm {r : Word} (residue : r.toNat < n.toNat) : ∃ g, r = montForm n g := by
  have : NeZero n.toNat := ⟨by omega⟩
  refine ⟨((r.toNat : ZMod n.toNat) * ((2 ^ 64 : Nat) : ZMod n.toNat)⁻¹).val, (eq_montForm_iff odd).2 ?_⟩
  have inverse : ((2 ^ 64 : Nat) : ZMod n.toNat) * ((2 ^ 64 : Nat) : ZMod n.toNat)⁻¹ = 1 :=
    ZMod.coe_mul_inv_eq_one _ (two_pow_coprime_of_odd odd 64).symm
  refine (Nat.mod_eq_of_lt residue).symm.trans ((ZMod.natCast_eq_natCast_iff' _ _ _).1 ?_)
  rw [Nat.cast_mul, ZMod.natCast_zmod_val, mul_assoc, mul_comm _ ((2 ^ 64 : Nat) : ZMod n.toNat), inverse, mul_one]

theorem montForm_one_ne_zero (three : 3 ≤ n.toNat) : (montForm n 1).toNat ≠ 0 := by
  intro zero
  rw [montForm_toNat odd] at zero
  have one_mod : 1 % n.toNat = 0 % n.toNat :=
    (mul_two_pow_mod_inj odd).1 (by rw [zero, Nat.zero_mul, Nat.zero_mod])
  rw [Nat.mod_eq_of_lt (by omega), Nat.zero_mod] at one_mod
  contradiction

/-- R194: `n - one` is the form of -1. -/
theorem sub_montForm_one (three : 3 ≤ n.toNat) : n - montForm n 1 = montForm n (n.toNat - 1) := by
  have below := montForm_lt odd 1
  have pos := Nat.pos_of_ne_zero (montForm_one_ne_zero odd three)
  have one_cast : ((montForm n 1).toNat : ZMod n.toNat) = ((1 * 2 ^ 64 : Nat) : ZMod n.toNat) := by
    rw [montForm_toNat odd, ZMod.natCast_mod]
  rw [eq_montForm_iff odd, BitVec.toNat_sub_of_le (BitVec.le_def.2 below.le)]
  refine (Nat.mod_eq_of_lt (Nat.sub_lt (by omega) pos)).symm.trans ((ZMod.natCast_eq_natCast_iff' _ _ _).1 ?_)
  rw [Nat.cast_sub below.le, one_cast, Nat.cast_mul, Nat.cast_mul, Nat.cast_sub (by omega), ZMod.natCast_self]
  ring

end

/-! The datapath of `mont_mul`. -/

/-- The upper half of a product with a word below `n` is below `n` too. -/
theorem mul128_hi_lt {a b n : Word} (pos : 0 < n.toNat) (h : b.toNat ≤ n.toNat) : (mul128 a b).2.toNat < n.toNat := by
  rw [mul128_hi]
  refine Nat.div_lt_of_lt_mul ?_
  calc a.toNat * b.toNat ≤ a.toNat * n.toNat := Nat.mul_le_mul_left _ h
    _ < 2 ^ 64 * n.toNat := Nat.mul_lt_mul_of_pos_right a.isLt pos

theorem mul128_lo_eq_mul (a b : Word) : (mul128 a b).1 = a * b := by
  apply BitVec.eq_of_toNat_eq
  rw [mul128_lo, BitVec.toNat_mul]

/-- The multiple of `n` that the reduction subtracts has the product's lower half (R196). -/
theorem mul128_reduction_lo {n nInv : Word} (inverse : n * nInv = 1) (lo : Word) : (mul128 (lo * nInv) n).1 = lo := by
  rw [mul128_lo_eq_mul, mul_assoc, mul_comm nInv, inverse, mul_one]

/-- `mh` of R196: the upper half of the multiple of `n` that the reduction subtracts. -/
def reductionHi (a b n nInv : Word) : Word := (mul128 ((mul128 a b).1 * nInv) n).2

/-- R196. -/
theorem montMul_eq (a b n nInv : Word) : montMul a b n nInv =
    if (mul128 a b).2 < reductionHi a b n nInv then (mul128 a b).2 - reductionHi a b n nInv + n
    else (mul128 a b).2 - reductionHi a b n nInv := rfl

theorem reductionHi_lt {n : Word} (pos : 0 < n.toNat) (a b nInv : Word) : (reductionHi a b n nInv).toNat < n.toNat :=
  mul128_hi_lt pos le_rfl

theorem reductionHi_recompose {n nInv : Word} (inverse : n * nInv = 1) (a b : Word) :
    (reductionHi a b n nInv).toNat * 2 ^ 64 + (mul128 a b).1.toNat = ((mul128 a b).1 * nInv).toNat * n.toNat := by
  rw [← mul128_recompose, mul128_reduction_lo inverse, reductionHi]

/-- The difference of the upper halves, `n` added on a borrow (R196). -/
theorem montMul_toNat {a b n : Word} (nInv : Word) (pos : 0 < n.toNat) (hb : b.toNat < n.toNat) :
    (montMul a b n nInv).toNat =
      if (mul128 a b).2.toNat < (reductionHi a b n nInv).toNat then
        (mul128 a b).2.toNat + n.toNat - (reductionHi a b n nInv).toNat
      else (mul128 a b).2.toNat - (reductionHi a b n nInv).toNat := by
  have hi_lt : (mul128 a b).2.toNat < n.toNat := mul128_hi_lt pos hb.le
  have mh_lt := reductionHi_lt pos a b nInv
  have n_lt := n.isLt
  rw [montMul_eq]
  by_cases borrow : (mul128 a b).2 < reductionHi a b n nInv
  · have below : (mul128 a b).2.toNat < (reductionHi a b n nInv).toNat := borrow
    rw [if_pos borrow, if_pos below, BitVec.toNat_add, BitVec.toNat_sub]
    omega
  · rw [if_neg borrow, if_neg (mt BitVec.lt_def.2 borrow), BitVec.toNat_sub_of_le (BitVec.not_lt.1 borrow)]

/-- Two numbers with one lower half `lo` differ by the difference of their upper halves, a multiple of `N` aside. -/
theorem reduction_balance {P M N R hi mh lo r : Nat} (product : hi * R + lo = P) (multiple : mh * R + lo = M)
    (le : mh ≤ N) (result : r = if hi < mh then hi + N - mh else hi - mh) : ∃ k, r * R + M = P + k * N := by
  subst product multiple
  split_ifs at result with borrow
  · have halves : r + mh = hi + N := by omega
    refine ⟨R, ?_⟩
    rw [← Nat.add_assoc, ← Nat.add_mul, halves]
    ring
  · have halves : r + mh = hi := by omega
    refine ⟨0, ?_⟩
    rw [← Nat.add_assoc, ← Nat.add_mul, halves]
    ring

section
variable {n nInv : Word} (odd : n.toNat % 2 = 1) (inverse : n * nInv = 1)
include odd

theorem montMul_lt {a b : Word} (hb : b.toNat < n.toNat) : (montMul a b n nInv).toNat < n.toNat := by
  have hi_lt : (mul128 a b).2.toNat < n.toNat := mul128_hi_lt (by omega) hb.le
  rw [montMul_toNat nInv (by omega) hb]
  split_ifs <;> omega

include inverse

/-- R196: the result times `2^64` is the product, up to multiples of `n`. -/
theorem montMul_mul_two_pow {a b : Word} (hb : b.toNat < n.toNat) :
    (montMul a b n nInv).toNat * 2 ^ 64 % n.toNat = a.toNat * b.toNat % n.toNat := by
  obtain ⟨k, balance⟩ := reduction_balance (mul128_recompose a b) (reductionHi_recompose inverse a b)
    (reductionHi_lt (by omega) a b nInv).le (montMul_toNat nInv (by omega) hb)
  rw [← Nat.add_mul_mod_self_right _ ((mul128 a b).1 * nInv).toNat, balance, Nat.add_mul_mod_self_right]

theorem montMul_montForm (g h : Nat) : montMul (montForm n g) (montForm n h) n nInv = montForm n (g * h) := by
  have forms : g * 2 ^ 64 * (h * 2 ^ 64) = g * h * 2 ^ 64 * 2 ^ 64 := by ring
  refine eq_of_mul_two_pow_mod odd (montMul_lt odd (montForm_lt odd h)) (montForm_lt odd _) ?_
  rw [montMul_mul_two_pow odd inverse (montForm_lt odd h)]
  simp only [montForm_toNat odd]
  rw [← Nat.mul_mod, Nat.mod_mul_mod, forms]

/-! The loop of `mont_pow`. -/

/-- R198: with `e` bits to go, the accumulator is multiplied by the base's power `e`. -/
theorem montPowLoop_montForm (fuel g b : Nat) (e : Word) (enough : e.toNat < 2 ^ fuel) :
    montPowLoop n nInv fuel (montForm n g) (montForm n b) e = montForm n (g * b ^ e.toNat) := by
  induction fuel generalizing g b e with
  | zero => rw [montPowLoop, show e.toNat = 0 by omega, pow_zero, mul_one]
  | succ fuel ih =>
    rw [montPowLoop, montMul_montForm odd inverse, montMul_montForm odd inverse]
    by_cases zero : e = 0
    · rw [if_pos zero, zero, show (0 : Word).toNat = 0 from rfl, pow_zero, mul_one]
    have half : (e >>> 1).toNat = e.toNat / 2 := by rw [BitVec.toNat_ushiftRight, Nat.shiftRight_eq_div_pow, pow_one]
    have fits : (e >>> 1).toNat < 2 ^ fuel := by rw [pow_succ] at enough; omega
    have power : (b * b) ^ (e.toNat / 2) = b ^ (2 * (e.toNat / 2)) := by rw [← pow_two, pow_mul]
    rw [if_neg zero]
    by_cases low : e.getLsbD 0 = true
    · have : e.toNat = 2 * (e.toNat / 2) + 1 := by have := (oddMod_iff e).1 low; omega
      rw [if_pos low, ih _ _ _ fits, half, power, mul_assoc, ← pow_succ', ← this]
    · have : e.toNat = 2 * (e.toNat / 2) := by have := mt (oddMod_iff e).2 low; omega
      rw [if_neg low, ih _ _ _ fits, half, power, ← this]

theorem montPow_montForm (g : Nat) (e : Word) :
    montPow (montForm n g) e n nInv (montForm n 1) = montForm n (g ^ e.toNat) := by
  rw [montPow, montPowLoop_montForm odd inverse 64 1 g e e.isLt, one_mul]

end

end Sys2Proof.Machine
end

section
/-! SUPPORT. The strong probable-prime round in plain arithmetic (R202): a prime passes it, and what passes it passes Fermat's
test, which few composites below 2047 do. -/

namespace Sys2Proof.Machine

open Sys2Proof.Spec

/-- R202's condition for one factorization `n - 1 = d · 2^sh`. -/
def RoundCondition (n a d sh : Nat) : Prop := a ^ d % n = 1 ∨ ∃ j < sh, a ^ (d * 2 ^ j) % n = n - 1

theorem passesRound_iff (n a : Nat) :
    PassesRound n a ↔ ∃ d sh : Nat, n - 1 = d * 2 ^ sh ∧ d % 2 = 1 ∧ RoundCondition n a d sh := Iff.rfl

/-! Powers modulo `n`. -/

section
variable {n : Nat} (one_lt : 1 < n) (a e : Nat)
include one_lt

theorem pow_mod_eq_one_iff : a ^ e % n = 1 ↔ (a : ZMod n) ^ e = 1 := by
  rw [← Nat.cast_pow, ← Nat.cast_one (R := ZMod n), ZMod.natCast_eq_natCast_iff', Nat.mod_eq_of_lt one_lt]

theorem pow_mod_eq_sub_one_iff : a ^ e % n = n - 1 ↔ (a : ZMod n) ^ e = -1 := by
  have minus_one : ((n - 1 : Nat) : ZMod n) = -1 := by
    rw [Nat.cast_sub one_lt.le, ZMod.natCast_self, Nat.cast_one, zero_sub]
  rw [← Nat.cast_pow, ← minus_one, ZMod.natCast_eq_natCast_iff', Nat.mod_eq_of_lt (show n - 1 < n by omega)]

end

theorem exists_odd_mul_two_pow {n : Nat} (one_lt : 1 < n) : ∃ d sh : Nat, n - 1 = d * 2 ^ sh ∧ d % 2 = 1 := by
  obtain ⟨sh, d, odd, factored⟩ := Nat.exists_eq_two_pow_mul_odd (Nat.sub_ne_zero_of_lt one_lt)
  exact ⟨d, sh, factored.trans (mul_comm _ _), Nat.odd_iff.1 odd⟩

/-! Primes. -/

/-- In a field, a root of 1 of order a power of two is 1 or squares to -1 on the way. -/
theorem eq_one_or_pow_eq_neg_one {F : Type*} [Field F] {y : F} (k : Nat) (root : y ^ 2 ^ k = 1) :
    y = 1 ∨ ∃ j < k, y ^ 2 ^ j = -1 := by
  induction k with
  | zero => exact .inl (by rwa [pow_zero, pow_one] at root)
  | succ k ih =>
    rw [pow_succ, pow_mul, pow_two, mul_self_eq_one_iff] at root
    rcases root with one | minus
    · exact (ih one).imp_right fun ⟨j, lt, eq⟩ => ⟨j, by omega, eq⟩
    · exact .inr ⟨k, by omega, minus⟩

/-- R202: a prime passes a round whose base it does not divide. -/
theorem roundCondition_of_prime {p a d sh : Nat} (prime : Nat.Prime p) (base : ¬ p ∣ a) (factored : p - 1 = d * 2 ^ sh) :
    RoundCondition p a d sh := by
  have : Fact p.Prime := ⟨prime⟩
  have nonzero : (a : ZMod p) ≠ 0 := mt (ZMod.natCast_eq_zero_iff a p).1 base
  have fermat : ((a : ZMod p) ^ d) ^ 2 ^ sh = 1 := by rw [← pow_mul, ← factored, ZMod.pow_card_sub_one_eq_one nonzero]
  rcases eq_one_or_pow_eq_neg_one sh fermat with one | ⟨j, lt, minus⟩
  · exact .inl ((pow_mod_eq_one_iff prime.one_lt a d).2 one)
  · exact .inr ⟨j, lt, (pow_mod_eq_sub_one_iff prime.one_lt a _).2 (by rw [pow_mul, minus])⟩

theorem passesRound_of_prime {p a : Nat} (prime : Nat.Prime p) (base : ¬ p ∣ a) : PassesRound p a := by
  obtain ⟨d, sh, factored, odd⟩ := exists_odd_mul_two_pow prime.one_lt
  exact (passesRound_iff p a).2 ⟨d, sh, factored, odd, roundCondition_of_prime prime base factored⟩

/-! Composites. -/

/-- A number that passes a round passes Fermat's test with the same base. -/
theorem fermat_of_passesRound {n a : Nat} (one_lt : 1 < n) (passes : PassesRound n a) : a ^ (n - 1) % n = 1 := by
  obtain ⟨d, sh, factored, -, condition⟩ := (passesRound_iff n a).1 passes
  rw [pow_mod_eq_one_iff one_lt, factored]
  rcases condition with one | ⟨j, lt, minus⟩
  · rw [pow_mul, (pow_mod_eq_one_iff one_lt a d).1 one, one_pow]
  · have split : d * 2 ^ sh = d * 2 ^ j * (2 * 2 ^ (sh - j - 1)) := by
      rw [← pow_succ', mul_assoc, ← pow_add]
      congr 2
      omega
    rw [split, pow_mul, (pow_mod_eq_sub_one_iff one_lt a _).1 minus, pow_mul, neg_one_sq, one_pow]

theorem mem_of_coprime_below_46 : ∀ p < 46, 1 < p → Nat.Coprime p 210 →
    p ∈ [11, 13, 17, 19, 23, 29, 31, 37, 41, 43] := by
  decide

/-- The products below 2047 that pass Fermat's test with base 2, their factors coprime to 210. -/
theorem fermat_pseudoprimes_below_2047 : ∀ p ∈ [11, 13, 17, 19, 23, 29, 31, 37, 41, 43], ∀ m < 187, p ≤ m →
    p * m < 2047 → Nat.Coprime m 210 → 2 ^ (p * m - 1) % (p * m) = 1 → p * m = 341 ∨ p * m = 1387 := by
  decide +kernel

/-- A composite below 2047 that is coprime to 210 fails the round with base 2, but perhaps for the two that pass Fermat's
test. -/
theorem composite_below_2047 {n : Nat} (one_lt_n : 1 < n) (composite : ¬ Nat.Prime n) (below : n < 2047)
    (coprime : Nat.Coprime n 210) (passes : PassesRound n 2) : n = 341 ∨ n = 1387 := by
  have fermat := fermat_of_passesRound one_lt_n passes
  obtain ⟨m, factors⟩ := Nat.minFac_dvd n
  have one_lt : 1 < n.minFac := (Nat.minFac_prime (by omega)).one_lt
  have square : n.minFac ^ 2 ≤ n := Nat.minFac_sq_le_self (by omega) composite
  generalize n.minFac = p at *
  subst factors
  have le : p ≤ m := Nat.le_of_mul_le_mul_left (pow_two p ▸ square) (by omega)
  have listed := mem_of_coprime_below_46 p (by nlinarith) one_lt coprime.coprime_mul_right
  have eleven : 11 ≤ p := (show ∀ q ∈ [11, 13, 17, 19, 23, 29, 31, 37, 41, 43], 11 ≤ q by decide) p listed
  exact fermat_pseudoprimes_below_2047 p listed m (by nlinarith) le below coprime.coprime_mul_left fermat

end Sys2Proof.Machine
end

section
/-! SUPPORT. The loops of `mont_sprp` (R200): the factoring of `n - 1` and the repeated squaring decide the round's
condition. -/

namespace Sys2Proof.Machine

open Sys2Proof.Spec

/-! The factoring loop. -/

/-- R200: the loop finds the factorization of its operand, given fuel for the halvings. -/
theorem oddPart_of_factored {m : Nat} (odd : m % 2 = 1) (k fuel : Nat) (d : Word) (sh : Nat) (enough : k ≤ fuel)
    (factored : d.toNat = m * 2 ^ k) : oddPart fuel d sh = (BitVec.ofNat 64 m, sh + k) := by
  induction k generalizing fuel d sh with
  | zero =>
    rw [pow_zero, mul_one] at factored
    have low : d.getLsbD 0 = true := (oddMod_iff d).2 (factored ▸ odd)
    rw [← factored, BitVec.ofNat_toNat, BitVec.setWidth_eq]
    cases fuel with
    | zero => rfl
    | succ fuel => rw [oddPart, if_pos low]; rfl
  | succ k ih =>
    obtain ⟨fuel, rfl⟩ := Nat.exists_eq_add_of_le' (show 1 ≤ fuel by omega)
    rw [pow_succ, ← mul_assoc] at factored
    have low : ¬ d.getLsbD 0 = true := mt (oddMod_iff d).1 (by omega)
    have half : (d >>> 1).toNat = m * 2 ^ k := by
      rw [BitVec.toNat_ushiftRight, Nat.shiftRight_eq_div_pow, pow_one, factored, Nat.mul_div_cancel _ (by decide)]
    rw [oddPart, if_neg low, ih fuel (d >>> 1) (sh + 1) (by omega) half, Nat.add_right_comm, Nat.add_assoc]

/-- R200 as `mont_sprp` calls it: 64 halvings are enough for a word. -/
theorem oddPart_sub_one {n : Word} {d sh : Nat} (factored : n.toNat - 1 = d * 2 ^ sh) (odd : d % 2 = 1) :
    oddPart 64 (n - 1) 0 = (BitVec.ofNat 64 d, sh) := by
  have := n.isLt
  have pos : 0 < d * 2 ^ sh := Nat.mul_pos (by omega) (Nat.two_pow_pos sh)
  have le : 2 ^ sh ≤ d * 2 ^ sh := Nat.le_mul_of_pos_left _ (by omega)
  have enough : sh < 64 := (Nat.pow_lt_pow_iff_right (a := 2) (by decide)).1 (by omega)
  have minus_one : (n - 1).toNat = d * 2 ^ sh := by
    rw [BitVec.toNat_sub_of_le (show (1 : Word).toNat ≤ n.toNat by simp; omega), ← factored]
    rfl
  rw [oddPart_of_factored odd sh 64 (n - 1) 0 enough.le minus_one, Nat.zero_add]

/-! The squarings. -/

section
variable {n nInv : Word} (odd : n.toNat % 2 = 1) (three : 3 ≤ n.toNat) (inverse : n * nInv = 1)
include odd three

theorem montForm_eq_one_iff (g : Nat) : montForm n g = montForm n 1 ↔ g % n.toNat = 1 := by
  rw [montForm_inj odd, Nat.mod_eq_of_lt (show 1 < n.toNat by omega)]

theorem montForm_eq_minus_one_iff (g : Nat) : montForm n g = n - montForm n 1 ↔ g % n.toNat = n.toNat - 1 := by
  rw [sub_montForm_one odd three, montForm_inj odd, Nat.mod_eq_of_lt (show n.toNat - 1 < n.toNat by omega)]

include inverse

/-- R200: `k` squarings meet -1 when one of the next `k` squares of `y` is -1; after a square that is 1, none is. -/
theorem sprpSquarings_iff (k y : Nat) :
    sprpSquarings n nInv (montForm n 1) (n - montForm n 1) k (montForm n y) = true ↔
      ∃ j < k, y ^ 2 ^ (j + 1) % n.toNat = n.toNat - 1 := by
  induction k generalizing y with
  | zero => simp [sprpSquarings]
  | succ k ih =>
    have square (j : Nat) : y ^ 2 ^ (j + 1) = (y * y) ^ 2 ^ j := by rw [← pow_two, ← pow_mul, pow_succ']
    rw [Nat.exists_lt_succ_left, square 0, pow_zero, pow_one, sprpSquarings, montMul_montForm odd inverse]
    by_cases minus : y * y % n.toNat = n.toNat - 1
    · rw [if_pos ((montForm_eq_minus_one_iff odd three _).2 minus)]
      exact iff_of_true rfl (.inl minus)
    rw [if_neg (mt (montForm_eq_minus_one_iff odd three _).1 minus)]
    by_cases one : y * y % n.toNat = 1
    · rw [if_pos ((montForm_eq_one_iff odd three _).2 one)]
      refine iff_of_false nofun (not_or.2 ⟨minus, ?_⟩)
      rintro ⟨j, -, later⟩
      rw [square, Nat.pow_mod, one, one_pow, Nat.mod_eq_of_lt (show 1 < n.toNat by omega)] at later
      omega
    · rw [if_neg (mt (montForm_eq_one_iff odd three _).1 one), ih]
      simp only [square (_ + 1), minus, false_or]

/-- R202: the round decides its condition in plain arithmetic, for the factorization of `n - 1`. -/
theorem montSprp_iff_roundCondition (a : Word) {d sh : Nat} (factored : n.toNat - 1 = d * 2 ^ sh) (d_odd : d % 2 = 1) :
    montSprp n a nInv (montForm n 1) = true ↔ RoundCondition n.toNat a.toNat d sh := by
  obtain ⟨sh, rfl⟩ : ∃ k, sh = k + 1 := Nat.exists_eq_succ_of_ne_zero (by rintro rfl; omega)
  have le : d ≤ d * 2 ^ (sh + 1) := Nat.le_mul_of_pos_right _ (Nat.two_pow_pos _)
  have d_toNat : (BitVec.ofNat 64 d).toNat = d := by
    rw [BitVec.toNat_ofNat, Nat.mod_eq_of_lt]
    exact (show d < n.toNat by omega).trans n.isLt
  have squares (j : Nat) : (a.toNat ^ d) ^ 2 ^ (j + 1) = a.toNat ^ (d * 2 ^ (j + 1)) := (pow_mul _ _ _).symm
  rw [RoundCondition, Nat.exists_lt_succ_left, pow_zero, mul_one, montSprp, oddPart_sub_one factored d_odd]
  dsimp only
  rw [toMont_eq_montForm, montPow_montForm odd inverse, d_toNat, ← or_assoc,
    ← or_congr (montForm_eq_one_iff odd three _) (montForm_eq_minus_one_iff odd three _)]
  split_ifs with first
  · exact iff_of_true rfl (.inl first)
  · rw [or_iff_right first, Nat.add_sub_cancel, sprpSquarings_iff odd three inverse]
    simp only [squares]

/-- R202: the round decides `PassesRound`, whichever factorization shows it. -/
theorem montSprp_iff_passesRound (a : Word) :
    montSprp n a nInv (montForm n 1) = true ↔ PassesRound n.toNat a.toNat := by
  rw [passesRound_iff]
  constructor
  · intro passes
    obtain ⟨d, sh, factored, d_odd⟩ := exists_odd_mul_two_pow (show 1 < n.toNat by omega)
    exact ⟨d, sh, factored, d_odd, (montSprp_iff_roundCondition odd three inverse a factored d_odd).1 passes⟩
  · rintro ⟨d, sh, factored, d_odd, condition⟩
    exact (montSprp_iff_roundCondition odd three inverse a factored d_odd).2 condition

end

end Sys2Proof.Machine
end

section
/-! SUPPORT. `is_prime` by its branches (R203): what trial division answers, and which rounds decide the rest. -/

namespace Sys2Proof.Machine

open Sys2Proof.Spec

/-- Trial division has an answer: the word is below 2 or has a factor among `SMALL_PRIMES` (R203). -/
def TrialDecides (n : Nat) : Prop := n < 2 ∨ ∃ q ∈ smallPrimes, q.toNat ∣ n

theorem umod_beq_zero_iff (n q : Word) : (n % q == 0) = true ↔ q.toNat ∣ n.toNat := by
  rw [beq_iff_eq, ← BitVec.toNat_inj, BitVec.toNat_umod]
  exact (Nat.dvd_iff_mod_eq_zero).symm

theorem prime_of_mem_smallPrimes : ∀ q ∈ smallPrimes, Nat.Prime q.toNat := by
  simp only [smallPrimes, List.forall_mem_cons, List.not_mem_nil, false_implies, implies_true, and_true,
    BitVec.reduceToNat]
  norm_num

/-- Where trial division answers, it answers primality. -/
theorem isPrime_iff_prime_of_trialDecides {n : Word} (trial : TrialDecides n.toNat) :
    isPrime n = true ↔ Nat.Prime n.toNat := by
  by_cases below : n.toNat < 2
  · rw [isPrime, if_pos (show n < 2 from below)]
    exact iff_of_false nofun fun prime => absurd prime.two_le (not_le.2 below)
  obtain ⟨q, mem, divides⟩ := trial.resolve_left below
  rw [isPrime, if_neg (show ¬ n < 2 from below)]
  cases found : smallPrimes.find? (fun q => n % q == 0) with
  | none => exact absurd ((umod_beq_zero_iff n q).2 divides) (List.find?_eq_none.1 found q mem)
  | some p =>
    have p_prime := prime_of_mem_smallPrimes p (List.mem_of_find?_eq_some found)
    have p_divides : p.toNat ∣ n.toNat := (umod_beq_zero_iff n p).1 (List.find?_some (p := fun q => n % q == 0) found)
    show (n == p) = true ↔ _
    rw [beq_iff_eq, ← BitVec.toNat_inj]
    exact ⟨fun eq => eq ▸ p_prime, fun prime => ((Nat.prime_dvd_prime_iff_eq p_prime prime).1 p_divides).symm⟩

theorem smallPrimes_prod : (smallPrimes.map BitVec.toNat).prod = 210 := by simp [smallPrimes]

/-- Trial division leaves open the words from 2 on that are coprime to 210. -/
theorem not_trialDecides_iff (n : Nat) : ¬ TrialDecides n ↔ 2 ≤ n ∧ Nat.Coprime n 210 := by
  rw [TrialDecides, not_or, not_lt]
  refine and_congr_right fun _ => not_iff_comm.1 ⟨fun h => ?_, ?_⟩
  · obtain ⟨p, prime, dvd_n, dvd⟩ := Nat.Prime.not_coprime_iff_dvd.1 h
    rw [← smallPrimes_prod, Prime.dvd_prod_iff prime.prime] at dvd
    obtain ⟨_, listed, dvd⟩ := dvd
    obtain ⟨q, mem, rfl⟩ := List.mem_map.1 listed
    exact ⟨q, mem, (Nat.prime_dvd_prime_iff_eq prime (prime_of_mem_smallPrimes q mem)).1 dvd ▸ dvd_n⟩
  · rintro ⟨q, mem, divides⟩
    have dvd : q.toNat ∣ 210 := smallPrimes_prod ▸ List.dvd_prod (List.mem_map_of_mem mem)
    exact Nat.not_coprime_of_dvd_of_dvd (prime_of_mem_smallPrimes q mem).one_lt divides dvd

theorem odd_and_three_le_of_not_trialDecides {n : Nat} (survives : ¬ TrialDecides n) : n % 2 = 1 ∧ 3 ≤ n := by
  obtain ⟨two_le, no_factor⟩ := not_or.1 survives
  have odd : ¬ 2 ∣ n := fun even => no_factor ⟨2, by decide, even⟩
  omega

/-- A survivor of trial division other than the pseudoprime is decided by its rounds: base 2, and from 2047 on the
witnesses. -/
theorem isPrime_iff_rounds {n : Word} (survives : ¬ TrialDecides n.toNat) (other : n ≠ pseudoprime) :
    isPrime n = true ↔
      PassesRound n.toNat 2 ∧ (2047 ≤ n.toNat → ∀ a ∈ witnesses, PassesRound n.toNat a.toNat) := by
  obtain ⟨odd, three⟩ := odd_and_three_le_of_not_trialDecides survives
  obtain ⟨two_le, no_factor⟩ := not_or.1 survives
  have none_found : smallPrimes.find? (fun q => n % q == 0) = none :=
    List.find?_eq_none.2 fun q mem zero => no_factor ⟨q, mem, (umod_beq_zero_iff n q).1 zero⟩
  have round (a : Word) : montSprp n a (montInv n) (montOne n) = true ↔ PassesRound n.toNat a.toNat := by
    rw [montOne_eq_montForm]
    exact montSprp_iff_passesRound odd three (mul_montInv odd) a
  have base_two : montSprp n 2 (montInv n) (montOne n) = true ↔ PassesRound n.toNat 2 := round 2
  rw [isPrime, if_neg (show ¬ n < 2 from two_le), none_found]
  dsimp only
  rw [if_neg other, ← base_two]
  cases montSprp n 2 (montInv n) (montOne n) with
  | false => simp
  | true =>
    simp only [Bool.not_true, Bool.false_eq_true, if_false, true_and]
    by_cases bound : n < base2Bound
    · rw [if_pos bound]
      exact iff_of_true rfl fun le => absurd le (not_le.2 bound)
    · rw [if_neg bound, List.all_eq_true]
      simp only [round]
      exact ⟨fun all _ => all, fun all => all (not_lt.1 bound)⟩

end Sys2Proof.Machine
end

section
/-! The Montgomery engine: the commands in and outside their domains, the strong round, the primality test, and the table that
the search delivers with it. -/

namespace Sys2Proof.Machine

open Sys2Proof.Spec

/-- Settles O42: the round's loops decide R202's condition for each factorization of `n - 1`. -/
theorem sprpDecidesStrongProbablePrime : Obligations.SprpDecidesStrongProbablePrime := by
  intro n a nInv one s
  refine ⟨rfl, fun odd three inverse is_one => ?_, exec_sprp_outside s⟩
  refine ⟨_, exec_sprp_inside s odd three inverse is_one, boolWord_cases _, fun d sh factored d_odd => ?_⟩
  obtain rfl : one = montForm n 1 := (eq_montForm_iff odd).2 (by rw [is_one, Nat.one_mul])
  rw [boolWord_eq_one_iff]
  exact montSprp_iff_roundCondition odd three ((mul_eq_one_iff n nInv).2 inverse) a factored d_odd

/-- Settles O43: trial division answers primality, and a survivor that is prime is larger than every base it is tried with. -/
theorem isprimeAcceptsEveryPrime : Obligations.IsprimeAcceptsEveryPrime := by
  intro n s
  refine ⟨rfl, _, exec_isprime s n, boolWord_cases _, fun prime => ?_⟩
  rw [boolWord_eq_one_iff]
  by_cases trial : TrialDecides n.toNat
  · exact (isPrime_iff_prime_of_trialDecides trial).2 prime
  have other : n ≠ pseudoprime := by
    rintro rfl
    exact absurd prime (show ¬ Nat.Prime 3215031751 by norm_num)
  have round (a : Nat) (pos : 0 < a) (below : a < n.toNat) : PassesRound n.toNat a :=
    passesRound_of_prime prime (Nat.not_dvd_of_pos_of_lt pos below)
  have witness_range : ∀ a ∈ witnesses, 0 < a.toNat ∧ a.toNat < 2047 := by simp [witnesses]
  refine (isPrime_iff_rounds trial other).2 ⟨round 2 (by decide) (odd_and_three_le_of_not_trialDecides trial).2, ?_⟩
  intro large a mem
  obtain ⟨pos, below⟩ := witness_range a mem
  exact round a.toNat pos (below.trans_le large)

/-- Settles O51: the word survives trial division and is not the pseudoprime, so its rounds decide. -/
theorem isprimeAppliesTheWitnessSet : Obligations.IsprimeAppliesTheWitnessSet := by
  intro n s eleven coprime other
  refine ⟨_, exec_isprime s n, boolWord_cases _, ?_⟩
  have listed : [3, 5, 7, 11, 13, 17, 19, 23, 29, 31, 37] = witnesses.map BitVec.toNat := rfl
  rw [boolWord_eq_one_iff, listed, List.forall_mem_map]
  exact isPrime_iff_rounds ((not_trialDecides_iff _).2 ⟨by omega, coprime⟩) fun eq => other (congrArg BitVec.toNat eq)

/-- Settles O37. -/
theorem minvDeliversTheInverse : Obligations.MinvDeliversTheInverse := by
  intro n s
  refine ⟨rfl, fun odd => ?_, exec_minv_of_even s⟩
  have inverse := mul_montInv odd
  have inverse' : montInv n * n = 1 := (mul_comm _ _).trans inverse
  refine ⟨montInv n, exec_minv_of_odd s odd, (mul_eq_one_iff _ _).1 inverse, fun y hy => ?unique, ?involution⟩
  case unique => exact eq_montInv odd ((mul_eq_one_iff n y).2 hy)
  case involution =>
    have odd' := odd_of_mul_eq_one inverse'
    rw [exec_minv_of_odd s odd', ← eq_montInv odd' inverse']

/-- Settles O38. -/
theorem tomontDeliversMontgomeryForm : Obligations.TomontDeliversMontgomeryForm := by
  intro x n s
  refine ⟨rfl, fun odd => ?_, exec_tomont_of_even s⟩
  have reduced : toMont (x % n) n = toMont x n := by
    rw [toMont_eq_montForm, toMont_eq_montForm, montForm_inj odd, BitVec.toNat_umod, Nat.mod_mod]
  refine ⟨toMont x n, exec_tomont_of_odd s odd, montForm_toNat odd _, montForm_lt odd _, ?_⟩
  rw [exec_tomont_of_odd s odd, reduced]

/-- Settles O39. -/
theorem moneDeliversOne : Obligations.MoneDeliversOne := by
  intro n s
  refine ⟨rfl, fun odd => ?_, exec_mone_of_even s⟩
  have value : (montOne n).toNat = 2 ^ 64 % n.toNat := by rw [montOne_eq_montForm, montForm_toNat odd, Nat.one_mul]
  refine ⟨montOne n, exec_mone_of_odd s odd, value, montOne_eq_montForm n, ?modulus_one,
    fun large => ?large, fun three => ?minus_one⟩
  case modulus_one =>
    rintro rfl
    rfl
  case large =>
    have := n.isLt
    rw [value, Nat.mod_eq_sub_mod (by omega), Nat.mod_eq_of_lt (by omega)]
  case minus_one =>
    rw [toMont_eq_montForm, montOne_eq_montForm, sub_montForm_one odd three,
      BitVec.toNat_sub_of_le (show (1 : Word).toNat ≤ n.toNat by simp; omega)]
    rfl

/-- Settles O40: `2^64` can be cancelled modulo `n`, so the residue is known by its product with it. -/
theorem mmulDeliversMontgomeryProduct : Obligations.MmulDeliversMontgomeryProduct := by
  intro a b n nInv s
  refine ⟨rfl, fun odd inverse ha hb => ?_, exec_mmul_outside s⟩
  have lt := montMul_lt (nInv := nInv) (a := a) odd hb
  have product := montMul_mul_two_pow odd ((mul_eq_one_iff n nInv).2 inverse) (a := a) hb
  refine ⟨montMul a b n nInv, exec_mmul_inside s odd inverse ha hb, lt, product, fun r' lt' product' => ?unique,
    fun is_one => ?identity⟩
  case unique => exact eq_of_mul_two_pow_mod odd lt' lt (product'.trans product.symm)
  case identity =>
    refine eq_of_mul_two_pow_mod odd lt hb (product.trans ?_)
    rw [is_one, Nat.mod_mul_mod, Nat.mul_comm]

/-- Settles O41: every residue is the form of some number, so the power's form is a residue for every base. -/
theorem mpowDeliversThePower : Obligations.MpowDeliversThePower := by
  intro base exp n nInv one s
  refine ⟨rfl, fun odd inverse is_one residue => ?_, exec_mpow_outside s⟩
  have completes := exec_mpow_inside s (exp := exp) odd inverse is_one residue
  obtain rfl : one = montForm n 1 := (eq_montForm_iff odd).2 (by rw [is_one, Nat.one_mul])
  have power := montPow_montForm odd ((mul_eq_one_iff n nInv).2 inverse)
  refine ⟨_, completes, ?residue, ?zero, fun g form => ?power⟩
  case residue =>
    obtain ⟨g, rfl⟩ := exists_eq_montForm odd residue
    rw [power]
    exact montForm_lt odd _
  case zero =>
    rintro rfl
    obtain ⟨g, rfl⟩ := exists_eq_montForm odd residue
    rw [power]
    rfl
  case power => rw [(eq_montForm_iff odd).2 form, power, montForm_toNat odd]

/-- Settles O44: trial division answers primality, the pseudoprime is rejected by name, and of the composites left below 2047
only 341 and 1387 pass Fermat's test with base 2, and the test rejects both. -/
theorem isprimeRejectsSmallComposites : Obligations.IsprimeRejectsSmallComposites := by
  intro n s composite range
  suffices rejected : isPrime n = false by rw [exec_isprime, rejected]; rfl
  by_cases trial : TrialDecides n.toNat
  · exact Bool.eq_false_iff.2 (mt (isPrime_iff_prime_of_trialDecides trial).1 composite)
  have no_factor (q : Word) (mem : q ∈ smallPrimes) : ¬ q.toNat ∣ n.toNat :=
    fun divides => trial (.inr ⟨q, mem, divides⟩)
  have named (m : Word) (rejected : isPrime m = false) (eq : n.toNat = m.toNat) : isPrime n = false := by
    rwa [BitVec.eq_of_toNat_eq eq]
  rcases range with below | pseudo | two | three | five | seven
  · rw [Bool.eq_false_iff]
    intro accepted
    have other : n ≠ pseudoprime := by
      rintro rfl
      exact absurd below (by decide)
    obtain ⟨passes, -⟩ := (isPrime_iff_rounds trial other).1 accepted
    obtain ⟨two_le, coprime⟩ := (not_trialDecides_iff _).1 trial
    rcases composite_below_2047 two_le composite below coprime passes with eq | eq
    · exact absurd accepted (Bool.eq_false_iff.1 (named 341 (by decide +kernel) eq))
    · exact absurd accepted (Bool.eq_false_iff.1 (named 1387 (by decide +kernel) eq))
  · exact named pseudoprime (by decide +kernel) pseudo
  · exact absurd two (no_factor 2 (by decide))
  · exact absurd three (no_factor 3 (by decide))
  · exact absurd five (no_factor 5 (by decide))
  · exact absurd seven (no_factor 7 (by decide))

/-- Settles O45: each clause fails one condition of the domain; two moduli have no inverse in common. -/
theorem domainFaultOutsideTheDomain : Obligations.DomainFaultOutsideTheDomain := by
  intro s a b n m nInv one base exp _
  refine ⟨fun even => ?even, fun large => ?product, fun large => ?power, fun small => ?round,
    fun ne delivers => ?inverse, fun ne delivers => ?one⟩
  case even =>
    exact ⟨exec_minv_of_even s even, exec_tomont_of_even s even, exec_mone_of_even s even,
      exec_mmul_outside s (.inl even), exec_mpow_outside s (.inl even), exec_sprp_outside s (.inl even)⟩
  case product => exact exec_mmul_outside s (.inr (.inr large))
  case power => exact exec_mpow_outside s (.inr (.inr (.inr large)))
  case round => exact exec_sprp_outside s (.inr (.inl small))
  case inverse =>
    obtain ⟨odd, rfl⟩ := of_exec_minv delivers
    have wrong : n.toNat * (montInv m).toNat % 2 ^ 64 ≠ 1 := by
      rw [Ne, ← mul_eq_one_iff]
      exact fun common => ne (left_inv_eq_right_inv common ((mul_comm _ _).trans (mul_montInv odd)))
    exact ⟨exec_mmul_outside s (.inr (.inl wrong)), exec_mpow_outside s (.inr (.inl wrong)),
      exec_sprp_outside s (.inr (.inr (.inl wrong)))⟩
  case one =>
    obtain ⟨odd, rfl⟩ := of_exec_mone delivers
    have wrong : (montOne m).toNat ≠ 2 ^ 64 % n.toNat := by
      rw [montOne_eq_montForm, montForm_toNat odd, Nat.one_mul]
      exact ne.symm
    exact ⟨exec_mpow_outside s (.inr (.inr (.inl wrong))), exec_sprp_outside s (.inr (.inr (.inr wrong)))⟩

/-- Settles O50: the step keeps the invariant, which holds every response to R86 and R248. -/
theorem deliveredTableIsAcceptable : Obligations.DeliveredTableIsAcceptable := by
  intro s t h res inv next delivered completed mksec
  have received : h :: res ∈ t.rspq := by
    rw [delivered]
    exact List.mem_append_right _ (List.mem_singleton.2 rfl)
  obtain ⟨header, results, eq, ok⟩ := (stepKeepsInvariant s t inv next).responses _ received
  obtain ⟨rfl, rfl⟩ := List.cons.inj eq
  obtain ⟨row, found, count⟩ := ok.completed completed
  have words := ok.table completed mksec
  rw [mksec] at found
  cases found
  exact ⟨count, fun w mem => ⟨(oddMod_iff w).1 (words.odd w mem), words.popcount w mem, words.prime w mem⟩,
    words.distance⟩

end Sys2Proof.Machine
end

section
/-! The secret generator's candidate (R243): each draw sets one byte, which the later draws keep, and advances the state once. -/

namespace Sys2Proof.Machine

/-- A byte moved to byte position `i` of a word, read at position `j`. -/
theorem extract_byte_shiftLeft (b : Byte) {i j : Nat} (h : j < 8) :
    (b.setWidth 64 <<< (8 * i) : Word).extractLsb' (8 * j) 8 = if j = i then b else 0 := by
  apply BitVec.eq_of_getLsbD_eq
  intro n hn
  have inside : 8 * j + n < 64 := by omega
  rw [BitVec.getLsbD_extractLsb', BitVec.getLsbD_shiftLeft, BitVec.getLsbD_setWidth]
  rcases lt_trichotomy j i with lt | rfl | gt
  · simp [lt.ne, show 8 * j + n < 8 * i by omega]
  · simp [hn, inside, show n < 64 by omega]
  · have beyond : b.getLsbD (8 * j + n - 8 * i) = false := BitVec.getLsbD_of_ge _ _ (by omega)
    simp [gt.ne', beyond]

/-- Two stretches of an arithmetic progression of words. -/
theorem progression_add (s0 d : Word) (j k : Nat) :
    s0 + BitVec.ofNat 64 j * d + BitVec.ofNat 64 k * d = s0 + BitVec.ofNat 64 (j + k) * d := by
  rw [BitVec.ofNat_add, add_mul, BitVec.add_assoc]

section
variable (p : Params)

/-- One draw: its byte at position `7 - k`, the state advanced once (R131, R243). -/
theorem drawBytes_succ (k : Nat) (w s : Word) :
    drawBytes p (k + 1) w s =
      drawBytes p k (w ||| ((candByte p (rand p s).1).setWidth 64 <<< (8 * (7 - k)))) (s + p.prngK0) := rfl

theorem drawBytes_snd (k : Nat) (w s : Word) : (drawBytes p k w s).2 = s + BitVec.ofNat 64 k * p.prngK0 := by
  induction k generalizing w s with
  | zero => simp [drawBytes]
  | succ k ih =>
    have first : s + p.prngK0 = s + BitVec.ofNat 64 1 * p.prngK0 := by simp
    rw [drawBytes_succ, ih, first, progression_add, Nat.add_comm]

/-- The `k` draws that remain keep the bytes below position `8 - k`. -/
theorem drawBytes_below {j k : Nat} (below : j + k < 8) (w s : Word) :
    (drawBytes p k w s).1.extractLsb' (8 * j) 8 = w.extractLsb' (8 * j) 8 := by
  induction k generalizing w s with
  | zero => rfl
  | succ k ih =>
    rw [drawBytes_succ, ih (by omega), BitVec.extractLsb'_or, extract_byte_shiftLeft _ (by omega), if_neg (by omega)]
    exact BitVec.or_zero

/-- Of the `k` draws that remain, draw `i` adds the table byte it selects at position `8 - k + i`. -/
theorem drawBytes_byte {i k : Nat} (drawn : i < k) (h : k ≤ 8) (w s : Word) :
    (drawBytes p k w s).1.extractLsb' (8 * (8 - k + i)) 8 =
      w.extractLsb' (8 * (8 - k + i)) 8 ||| candByte p (rand p (s + BitVec.ofNat 64 i * p.prngK0)).1 := by
  induction k generalizing i w s with
  | zero => omega
  | succ k ih =>
    rw [drawBytes_succ]
    cases i with
    | zero =>
      rw [drawBytes_below p (by omega), BitVec.extractLsb'_or, extract_byte_shiftLeft _ (by omega), if_pos (by omega)]
      simp
    | succ i =>
      have position : 8 - (k + 1) + (i + 1) = 8 - k + i := by omega
      have state : s + p.prngK0 + BitVec.ofNat 64 i * p.prngK0 = s + BitVec.ofNat 64 (i + 1) * p.prngK0 := by
        rw [← progression_succ, BitVec.add_assoc, BitVec.add_assoc, BitVec.add_comm p.prngK0]
      rw [position, ih (by omega) (by omega), state, BitVec.extractLsb'_or, extract_byte_shiftLeft _ (by omega),
        if_neg (by omega)]
      exact congrArg (· ||| _) BitVec.or_zero

/-- R243: eight draws. -/
theorem candidate_snd (s : Word) : (candidate p s).2 = s + 8 * p.prngK0 := drawBytes_snd p 8 0 s

/-- R243: the first draw at bits 7:0. -/
theorem candidate_byte {k : Nat} (h : k < 8) (s : Word) :
    (candidate p s).1.extractLsb' (8 * k) 8 = candByte p (rand p (s + BitVec.ofNat 64 k * p.prngK0)).1 := by
  have drawn := drawBytes_byte p h le_rfl 0 s
  have clear : (0 : Word).extractLsb' (8 * k) 8 = 0 := BitVec.extractLsb'_zero
  rw [Nat.sub_self, Nat.zero_add, clear] at drawn
  exact drawn.trans BitVec.zero_or

end

/-- Settles O46, byte by byte of the draws. -/
theorem candidateAssembledFromDraws : Obligations.CandidateAssembledFromDraws := fun p s0 =>
  ⟨candidate_snd p s0, fun _ h => candidate_byte p h s0, fun ok => popcount_candidate ok s0⟩

end Sys2Proof.Machine
end

section
/-! The secret generator's search (R241, R244 to R247): what one candidate does to it, with the tests as the statements write
them. -/

namespace Sys2Proof.Machine

open Sys2Proof.Spec

/-- The tests of R244 to R246 as the statements write them. -/
theorem acceptable_iff_good (out : List Word) (w : Word) : acceptable out w = true ↔ Good out w := by
  have odd : w.getLsbD 0 = true ↔ w.toNat % 2 = 1 := oddMod_iff w
  simp only [acceptable_iff, odd, Good, List.all_eq_true, decide_eq_true_eq, hamming]

/-! One candidate. -/

section
variable {p : Params} {g : Generator}

theorem searchStep_of_good (good : Good g.out (candidate p g.s).1) (more : g.out.length + 1 < 9) :
    searchStep p g = .running ⟨g.s + 8 * p.prngK0, g.out ++ [(candidate p g.s).1], 0⟩ := by
  simp [searchStep, (acceptable_iff_good _ _).2 good, more, candidate_snd]

theorem searchStep_of_ninth (good : Good g.out (candidate p g.s).1) (last : 9 ≤ g.out.length + 1) :
    searchStep p g = .table (g.out ++ [(candidate p g.s).1]) := by
  simp [searchStep, (acceptable_iff_good _ _).2 good, show ¬ g.out.length + 1 < 9 by omega]

theorem searchStep_of_bad (bad : ¬ Good g.out (candidate p g.s).1) (unlimited : p.retryLimit = none) :
    searchStep p g = .running ⟨g.s + 8 * p.prngK0, g.out, g.tries⟩ := by
  simp [searchStep, mt (acceptable_iff_good _ _).1 bad, unlimited, candidate_snd]

theorem searchStep_of_bad_within {limit : Nat} (bad : ¬ Good g.out (candidate p g.s).1)
    (limited : p.retryLimit = some limit) (within : g.tries + 1 ≤ limit) :
    searchStep p g = .running ⟨g.s + 8 * p.prngK0, g.out, g.tries + 1⟩ := by
  simp [searchStep, mt (acceptable_iff_good _ _).1 bad, limited, show ¬ limit < g.tries + 1 by omega, candidate_snd]

theorem searchStep_of_bad_beyond {limit : Nat} (bad : ¬ Good g.out (candidate p g.s).1)
    (limited : p.retryLimit = some limit) (beyond : limit < g.tries + 1) : searchStep p g = .failed := by
  simp [searchStep, mt (acceptable_iff_good _ _).1 bad, limited, beyond]

end

/-! One step of the unit, undisturbed. -/

section
variable {s : State} {g : Generator} (generating : s.activity = .generating g) (alone : s.host = [])
include generating alone

theorem step_of_generating : step s = .next (s.searchOn g) := by
  rw [step_of_no_act alone, advance, generating]

theorem step_of_running {g' : Generator} (running : searchStep s.params g = .running g') :
    step s = .next (s.generate g') := by
  rw [step_of_generating generating alone, State.searchOn, running]

theorem step_of_table {out : List Word} (table : searchStep s.params g = .table out) :
    step s = .next (answered s 0x30 out) := by
  rw [step_of_generating generating alone, State.searchOn, table]
  exact congrArg _ (deliver_eq_answered s 0x30 out)

theorem step_of_failed (failed : searchStep s.params g = .failed) : step s = .next (trapped s 0x0530 0x05) := by
  rw [step_of_generating generating alone, State.searchOn, failed]
  exact congrArg _ (raiseFault_eq_trapped s 0x30 .genFail)

end

/-- Settles O48: the candidate's outcome is the step's. -/
theorem searchExaminesOneCandidate : Obligations.SearchExaminesOneCandidate := by
  intro s g generating alone w next
  refine ⟨fun good more => ?accepted, fun good last => ?ninth, fun bad unlimited => ?rejected,
    fun limit bad limited => ⟨fun within => ?counted, fun beyond => ?failed⟩⟩
  case accepted => exact step_of_running generating alone (searchStep_of_good good more)
  case ninth => exact step_of_table generating alone (searchStep_of_ninth good last)
  case rejected => exact step_of_running generating alone (searchStep_of_bad bad unlimited)
  case counted => exact step_of_running generating alone (searchStep_of_bad_within bad limited within)
  case failed => exact step_of_failed generating alone (searchStep_of_bad_beyond bad limited beyond)

end Sys2Proof.Machine
end

section
/-! `MKSEC` from its descriptor to its response (R241, R242, R280, R297): the registers of an undisturbed search without a retry
ceiling are those of the candidate sequence that the seed determines. -/

namespace Sys2Proof.Machine

open Sys2Proof.Spec

theorem exec_mksec (seed : Word) (s : State) : exec (.mksec seed) s = .next (s.generate ⟨seed, [], 0⟩) := rfl

/-- Settles O47. -/
theorem mksecBeginsSearch : Obligations.MksecBeginsSearch := fun seed s => ⟨rfl, exec_mksec seed s⟩

/-! The candidate sequence. -/

section
variable {p : Params} {seed : Word} {k : Nat}

theorem acceptedAmong_succ_of_good (good : Good (acceptedAmong p seed k) (nthCandidate p seed k)) :
    acceptedAmong p seed (k + 1) = acceptedAmong p seed k ++ [nthCandidate p seed k] := if_pos good

theorem acceptedAmong_succ_of_bad (bad : ¬ Good (acceptedAmong p seed k) (nthCandidate p seed k)) :
    acceptedAmong p seed (k + 1) = acceptedAmong p seed k := if_neg bad

theorem acceptedAmong_length_le_succ : (acceptedAmong p seed k).length ≤ (acceptedAmong p seed (k + 1)).length := by
  rcases Classical.em (Good (acceptedAmong p seed k) (nthCandidate p seed k)) with good | bad
  · simp [acceptedAmong_succ_of_good good]
  · rw [acceptedAmong_succ_of_bad bad]

end

/-- The search registers after `k` candidates without a retry ceiling. -/
def searchAfter (p : Params) (seed : Word) (k : Nat) : Generator :=
  ⟨seed + BitVec.ofNat 64 (8 * k) * p.prngK0, acceptedAmong p seed k, 0⟩

theorem searchAfter_zero (p : Params) (seed : Word) : searchAfter p seed 0 = ⟨seed, [], 0⟩ := by
  simp [searchAfter, acceptedAmong]

section
variable {p : Params} {seed : Word} {k : Nat}

theorem searchAfter_succ (out : List Word) (accepted : acceptedAmong p seed (k + 1) = out) :
    searchAfter p seed (k + 1) = ⟨(searchAfter p seed k).s + 8 * p.prngK0, out, 0⟩ := by
  have state : (searchAfter p seed k).s + 8 * p.prngK0 = (searchAfter p seed (k + 1)).s :=
    progression_add seed p.prngK0 (8 * k) 8
  rw [state, ← accepted]
  rfl

/-- Fewer than nine words among the first `k + 1` candidates: the search goes on. -/
theorem searchStep_searchAfter (unlimited : p.retryLimit = none) (few : (acceptedAmong p seed (k + 1)).length < 9) :
    searchStep p (searchAfter p seed k) = .running (searchAfter p seed (k + 1)) := by
  rcases Classical.em (Good (acceptedAmong p seed k) (nthCandidate p seed k)) with good | bad
  · have accepted := acceptedAmong_succ_of_good good
    rw [accepted, List.length_append, List.length_singleton] at few
    rw [searchAfter_succ _ accepted]
    exact searchStep_of_good good few
  · rw [searchAfter_succ _ (acceptedAmong_succ_of_bad bad)]
    exact searchStep_of_bad bad unlimited

/-- The ninth word is candidate `k`: the table. -/
theorem searchStep_searchAfter_ninth (few : (acceptedAmong p seed k).length < 9)
    (nine : (acceptedAmong p seed (k + 1)).length = 9) :
    searchStep p (searchAfter p seed k) = .table (acceptedAmong p seed (k + 1)) := by
  rcases Classical.em (Good (acceptedAmong p seed k) (nthCandidate p seed k)) with good | bad
  · have accepted := acceptedAmong_succ_of_good good
    rw [accepted, List.length_append, List.length_singleton] at nine
    rw [accepted]
    exact searchStep_of_ninth good nine.ge
  · rw [acceptedAmong_succ_of_bad bad] at nine
    omega

end

/-! The run. -/

theorem core_step (s : State) : core.step s = step s := rfl

/-- A run and one step more. -/
theorem run_succ_of_next {k : Nat} {s t u : State} (run : core.run k s = .next t) (last : step t = .next u) :
    core.run (k + 1) s = .next u := by
  induction k generalizing s with
  | zero =>
    cases run
    simp only [Host.Core.run, core_step, last]
  | succ k ih =>
    simp only [Host.Core.run, core_step] at run ⊢
    cases first : step s with
    | next s' => exact ih (by simpa only [first] using run)
    | fault r => simp [first] at run
    | refused r => simp [first] at run

/-- The step that runs the descriptor begins the search at the seed (R241, R242). -/
theorem step_of_mksec {s : State} {seed : Word} (accepted : s.activity = .accepted [0x30, seed]) (alone : s.host = [])
    (clear : s.status.fault = false) : step s = .next (s.generate (searchAfter s.params seed 0)) := by
  rw [step_of_no_act alone, advance_of_decode_ok accepted clear (decodeOfEncode (.mksec seed)), exec_mksec, searchAfter_zero]

/-- By induction on the candidates examined, each a step more. -/
theorem run_mksec_searching {s : State} {seed : Word} (accepted : s.activity = .accepted [0x30, seed]) (alone : s.host = [])
    (clear : s.status.fault = false) (unlimited : s.params.retryLimit = none) {k : Nat}
    (few : (acceptedAmong s.params seed k).length < 9) :
    core.run (1 + k) s = .next (s.generate (searchAfter s.params seed k)) := by
  induction k with
  | zero => exact run_succ_of_next (k := 0) rfl (step_of_mksec accepted alone clear)
  | succ k ih =>
    have examined := step_of_running (s := s.generate (searchAfter s.params seed k)) rfl alone
      (searchStep_searchAfter unlimited few)
    exact run_succ_of_next (ih (acceptedAmong_length_le_succ.trans_lt few)) examined

/-- Settles O49: the search holds the accepted words while they are fewer than nine, and one step more delivers the nine. -/
theorem mksecRunDeliversAcceptedWords : Obligations.MksecRunDeliversAcceptedWords := by
  intro s seed k accepted alone clear unlimited few
  have searching := run_mksec_searching accepted alone clear unlimited few
  refine ⟨searching, fun nine => ?_⟩
  exact run_succ_of_next searching
    (step_of_table (s := s.generate (searchAfter s.params seed k)) rfl alone (searchStep_searchAfter_ninth few nine))

end Sys2Proof.Machine
end

section
/-! SUPPORT. What a step does to the latched fault (R262, R270, R271): it keeps `STATUS.FAULT` and `ECODE`, or takes the first
fault since reset, or is a `RESET`; said once, for each thing the unit can do. -/

namespace Sys2Proof.Machine

open Sys2Proof.Spec

/-- `STATUS.FAULT` and `STATUS.ECODE` as they were. -/
def FaultKept (s t : State) : Prop := t.status.fault = s.status.fault ∧ t.status.ecode = s.status.ecode

/-- Fault entry with no fault latched before (R270): the header alone goes out, its code is latched, and the command is over. -/
def FirstFault (s t : State) : Prop :=
  s.status.fault = false ∧ ∃ (f : CommandFault) (h : Word), t.rspq = s.rspq ++ [[h]] ∧ responseEcode h = faultCode f ∧
    t.status.ecode = faultCode f ∧ t.status.busy = false ∧ t.activity = .idle

/-- A second fault changes nothing (R262), the first is latched and reported. -/
theorem raiseFault_faultKept_or_firstFault (s : State) (opc : BitVec 8) (f : CommandFault) :
    FaultKept s (s.raiseFault opc f) ∨ FirstFault s (s.raiseFault opc f) :=
  (raiseFault_reports s opc f).imp_right fun ⟨clear, _, code, h, alone, told⟩ =>
    ⟨clear, f, h, alone, told.trans code, code, rfl, rfl⟩

theorem exec_faultKept_or_firstFault {i : Instr} {s t : State} (next : exec i s = .next t) :
    FaultKept s t ∨ FirstFault s t := by
  have outcome := exec_outcome i s
  rw [next] at outcome
  cases outcome with
  | delivers results => exact .inl ⟨rfl, rfl⟩
  | hashes d => exact .inl ⟨rfl, rfl⟩
  | spanFaults => exact raiseFault_faultKept_or_firstFault s i.opc .spanFault
  | domainFaults => exact raiseFault_faultKept_or_firstFault s i.opc .domainFault
  | begins seed mksec => exact .inl ⟨rfl, rfl⟩

theorem searchOn_faultKept_or_firstFault (s : State) (g : Generator) :
    FaultKept s (s.searchOn g) ∨ FirstFault s (s.searchOn g) := by
  rcases s.searchOn_cases g with ⟨g', -, e⟩ | ⟨out, -, e⟩ | ⟨-, e⟩ <;> rw [e]
  · exact .inl ⟨rfl, rfl⟩
  · exact .inl ⟨rfl, rfl⟩
  · exact raiseFault_faultKept_or_firstFault s 0x30 .genFail

/-- A refusal is not a second fault (R271); every other fault of the unit's own step is by fault entry. -/
theorem advance_faultKept_or_firstFault {s t : State} (next : advance s = .next t) : FaultKept s t ∨ FirstFault s t := by
  have outcome := advance_outcome s
  rw [next] at outcome
  generalize e : Host.Outcome.next t = o at outcome
  cases outcome with
  | waits idle => cases e; exact .inl ⟨rfl, rfl⟩
  | refuses frame accepted faulted => cases e; exact .inl ⟨rfl, rfl⟩
  | rejects frame f accepted clear illegal => cases e; exact raiseFault_faultKept_or_firstFault s (frameOpc frame) f
  | runs frame i accepted clear legal => exact exec_faultKept_or_firstFault e.symm
  | searches g generating => cases e; exact searchOn_faultKept_or_firstFault s g

/-- Of the host's acts only `RESET` touches the latch, which it clears (R290, R292). -/
theorem step_reset_or_faultKept_or_firstFault {s t : State} (next : step s = .next t) :
    (t.status.fault = false ∧ ∃ rest, s.host = .reset :: rest) ∨ FaultKept s t ∨ FirstFault s t := by
  have outcome := step_outcome s
  rw [next] at outcome
  generalize e : Host.Outcome.next t = o at outcome
  cases outcome with
  | advances rest act => exact .inr (advance_faultKept_or_firstFault (s := s.withHost rest) e.symm)
  | accepts frame ext rest act ready => cases e; exact .inr (.inl ⟨rfl, rfl⟩)
  | writes off b rest act => cases e; exact .inr (.inl ⟨rfl, rfl⟩)
  | resets rest act => cases e; exact .inl ⟨rfl, rest, act⟩

/-- An idle unit waits for the host (R279, R291). -/
theorem advance_of_idle {s : State} (idle : s.activity = .idle) : advance s = .next s := by
  rw [advance, idle]

/-- `SpanFault` as the statements write it (R265). -/
theorem runHash_eq_trapped {s : State} {len : Word} (beyond : s.ext < len.toNat) (opc : BitVec 8) (S : SecretTable)
    (seed : Word) : runHash opc S seed len s = .next (trapped s (responseHeader opc 0x03) 0x03) := by
  rw [runHash_of_beyond beyond, raiseFault_eq_trapped]
  rfl

end Sys2Proof.Machine
end

section
/-! Faults: the latch and its report, the span check, and the unit that waits. -/

namespace Sys2Proof.Machine

open Sys2Proof.Spec

/-- Settles O13: with a fault latched no step is fault entry for a first one. -/
theorem faultLatchedUntilReset : Obligations.FaultLatchedUntilReset := by
  intro s t next faulted no_reset
  rcases step_reset_or_faultKept_or_firstFault next with ⟨-, rest, act⟩ | ⟨fault, ecode⟩ | ⟨clear, -⟩
  · exact (no_reset rest act).elim
  · exact ⟨fault.trans faulted, ecode⟩
  · simp [faulted] at clear

/-- Settles O14: the latch is set by fault entry alone. -/
theorem firstFaultReportedTwice : Obligations.FirstFaultReportedTwice := by
  intro s t next clear set
  rcases step_reset_or_faultKept_or_firstFault next with ⟨cleared, -⟩ | ⟨fault, -⟩ | ⟨-, reported⟩
  · simp [set] at cleared
  · simp [set, clear] at fault
  · exact reported

/-- Settles O8: with no act of the host the step is the unit's own. -/
theorem idleUnitWaits : Obligations.IdleUnitWaits := fun _ idle alone =>
  (step_of_no_act alone).trans (advance_of_idle idle)

/-- Settles O34: each of the three commands is the common body, at its own `OPC`. -/
theorem spanFaultBeyondExtent : Obligations.SpanFaultBeyondExtent := fun s _ _ _ beyond =>
  ⟨runHash_eq_trapped beyond 0x10 s.params.secretDefault _, runHash_eq_trapped beyond 0x11 s.params.secretDefault _,
   runHash_eq_trapped beyond 0x12 _ _⟩

end Sys2Proof.Machine
end

section
/-! Reset: the host's act that the unit heeds whatever it is doing (R290, R292). -/

namespace Sys2Proof.Machine

/-- `RESET` is heeded at any time: neither `STATUS` nor the command in progress is looked at (R290). -/
theorem step_of_reset {s : State} {rest : List HostInput} (h : s.host = .reset :: rest) :
    step s = .next (s.afterReset.withHost rest) := by
  rw [step, turn, h]

/-- `STATUS` reads 0 after reset, in all its fields and its reserved bits (R21, R36). -/
theorem State.afterReset_status_word (s : State) : s.afterReset.status.word = 0 := by
  rw [State.afterReset_status]
  rfl

/-- Settles O11: the step is the reset, which clears `STATUS`, the port and the activity and leaves the rest. -/
theorem resetAtAnyTime : Obligations.ResetAtAnyTime := fun s rest act =>
  ⟨s.afterReset.withHost rest, step_of_reset act, s.afterReset_status_word, s.afterReset_rspq, s.afterReset_activity,
    s.afterReset_params, s.afterReset_msg, rfl⟩

end Sys2Proof.Machine
end
